-- ==== Sys2Proof/Word.lean ====
section
/-! DEFINITION. The word types: a byte (R9), and the counts 0 to 64 that `DEC.len` and `DEC.cnt` hold (R22, R25). -/

namespace Sys2Proof

/-- A byte: eight bits, an atomic value on the wire (R9, R52). -/
abbrev Byte := BitVec 8

/-- `MAX_PAYLOAD`, the largest declared payload length and the capacity of `DEC.buf` (R7). -/
abbrev maxPayload : Nat := 64

/-- The values of `DEC.len` and `DEC.cnt`: 0 to 64 (R22, R25). -/
abbrev Count := Fin (maxPayload + 1)

/-- A number as a count. It is used only where a condition keeps the number at most 64, so that nothing wraps (R10). -/
def countOf (n : Nat) : Count := Fin.ofNat (maxPayload + 1) n

end Sys2Proof
end

