-- ==== Sys2Proof/Config.lean ====
section
/-! DEFINITION. What an implementation fixes (R7, R8) and the free values. The numbers this hardware gives the parameters of
R7 stand in `Machine/Params.lean`; the OPEN parameters of R8 are constants with no body, so that a claim that names one holds
for every value of it. -/

namespace Sys2Proof

/-- The block's preamble parameters (R7). The decoder's three bytes are kept apart from the encoder's, as R7 advises
(log 16). -/
structure BlockParams where
  pre1   : Byte
  pre2   : Byte
  pre3   : Byte
  rxPre1 : Byte
  rxPre2 : Byte
  rxPre3 : Byte
deriving DecidableEq, Repr

/-- The OPEN parameters of the host (R8, R165): the twelve command ids, the altitude-hold magnitude, the size of the telemetry
record and the tick interval. No distinctness of the ids is assumed (D24). -/
structure HostParams where
  cmdArm          : Byte
  cmdDisarm       : Byte
  cmdAccCal       : Byte
  cmdMagCal       : Byte
  cmdPersist      : Byte
  cmdTrimUp       : Byte
  cmdTrimDown     : Byte
  cmdTrimLeft     : Byte
  cmdTrimRight    : Byte
  cmdSetControl   : Byte
  cmdReqSensor    : Byte
  cmdSensorReport : Byte
  /-- `ALTHOLD_ON`; a byte, which is its side condition `CH_MIN + ALTHOLD_ON <= 255` with `CH_MIN = 0` (D25). -/
  altholdOn       : Byte
  /-- `SNAPSHOT_LEN`; no rule reads it (D26; log 14). -/
  snapshotLen     : Nat
  /-- `TICK`; no rule reads it (D27; log 14). -/
  tick            : Nat
deriving DecidableEq, Repr, Inhabited

/-- The host's OPEN parameters: not in the source, so nothing constrains them (D24 to D27; log 21). -/
opaque Config.hostParams : HostParams

/-- What a buffer cell nothing has written holds: a free value for each power-on (first argument) and each cell (second)
(R31, U2; log 5). -/
opaque Config.unwrittenByte : Nat → Nat → Byte

/-- What a read of the telemetry record returns before the first sensor report: a free value for each read, which its argument
counts (R164, U5; log 6). -/
opaque Config.initialSnapshot : Nat → List Byte

end Sys2Proof
end

