-- ==== Sys2Proof/Syntax.lean ====
section
/-! DEFINITION. What is asked of the machine: the block's sixteen operations (`Instr`, one constructor per row of
`spec/opcode_table.json`), the words they are presented as (`Invocation`), and everything else the schedule can hold: inbound
arrivals, moves of the host's threads, Control Surface calls, reset and shutdown. -/

namespace Sys2Proof

/-- The six values of `DEC.state` (R21). `AWAIT_CHECKSUM` is a condition, not a seventh value (D9). -/
inductive FsmState where
  | awaitPreamble1
  | awaitPreamble2
  | awaitPreamble3
  | awaitLength
  | awaitCommand
  | awaitPayload
deriving DecidableEq, Repr

/-- The fields of `DEC` that the conditions of R84 read: what selects a decoder row, beside the consumed byte. -/
structure RowKey where
  state : FsmState
  len   : Count
  cnt   : Count
  acc   : Byte
deriving DecidableEq, Repr

/-- The operations of the block (R85, R84): one constructor per row of the table. A transition that any one of several bytes
can select carries the byte it consumes. -/
inductive Instr where
  /-- `ENC_CMD cmd` (R101). -/
  | encCmd (cmd : Byte)
  /-- `ENC_PAYLOAD cmd, payload` (R102). -/
  | encPayload (cmd : Byte) (payload : List Byte)
  /-- `DEC_STEP` (R120): its operand is implicit, the transport's next inbound byte, if any (R85). -/
  | decStep
  /-- `DEC_IDLE` (R122): no byte available. -/
  | decIdle
  /-- `DEC_P1_MATCH` (R123). -/
  | decP1Match
  /-- `DEC_P1_MISS` (R124). -/
  | decP1Miss (b : Byte)
  /-- `DEC_P2_MATCH` (R125). -/
  | decP2Match
  /-- `DEC_P2_MISS` (R126). -/
  | decP2Miss (b : Byte)
  /-- `DEC_P3_MATCH` (R127). -/
  | decP3Match
  /-- `DEC_P3_MISS` (R128). -/
  | decP3Miss (b : Byte)
  /-- `DEC_LEN_OK` (R129). -/
  | decLenOk (b : Byte)
  /-- `DEC_LEN_OVER` (R130). -/
  | decLenOver (b : Byte)
  /-- `DEC_CMD` (R131). -/
  | decCmd (b : Byte)
  /-- `DEC_PAYLOAD` (R132). -/
  | decPayload (b : Byte)
  /-- `DEC_CSUM_OK` (R133). -/
  | decCsumOk (b : Byte)
  /-- `DEC_CSUM_BAD` (R134). -/
  | decCsumBad (b : Byte)
deriving DecidableEq, Repr

/-- How an operation is presented to the block (R86, R88). -/
inductive Invocation where
  /-- An encode request, written as the frame that it asks for: the FRAME rows of the table (R88; log 3). -/
  | enc (frame : List Byte)
  /-- `DEC_STEP`: the decoder is invoked and polls the transport (R120, R137). -/
  | poll
  /-- `RX b` or `RX -`: the decoder is invoked with that byte, or with none (R86); the DEC rows of the table. -/
  | rx (input : Option Byte)
deriving DecidableEq, Repr

/-! ## The host around the block (42_host_environment.md) -/

/-- The six one-shot request flags (R161), in the order the command phase drains them (R168). -/
inductive ReqFlag where
  | arm
  | disarm
  | accCal
  | magCal
  | persist
  | trim
deriving DecidableEq, Repr

/-- The trim directions (R161). -/
inductive TrimDir where
  | up
  | down
  | left
  | right
deriving DecidableEq, Repr

/-- The seven values of ControlInputs (R160). -/
inductive CtlField where
  | roll
  | pitch
  | yaw
  | throttle
  | althold
  | flowX
  | flowY
deriving DecidableEq, Repr

/-- One write of one field of the shared records: the unit of atomicity (R187). -/
inductive FieldWrite where
  | roll (v : Int)
  | pitch (v : Int)
  | yaw (v : Int)
  | throttle (v : Nat)
  | althold (v : Nat)
  | flowX (v : Int)
  | flowY (v : Int)
  /-- Sets the flag to true. -/
  | flag (f : ReqFlag)
  | trimDir (d : TrimDir)
deriving DecidableEq, Repr

/-- The Control Surface's operations (R178 to R184). -/
inductive Call where
  /-- Initialise and start the background loops (R184). -/
  | start
  | setRoll (v : Int)
  | setPitch (v : Int)
  | setYaw (v : Int)
  | resetNeutral
  | setThrottle (v : Nat)
  | setAlthold (on : Bool)
  | setFlow (x y : Int)
  | requestArm
  | requestDisarm
  | requestAccCal
  | requestMagCal
  | requestPersist
  | requestTrim (d : TrimDir)
  /-- Read the latest telemetry snapshot (R183). -/
  | getTelemetry
deriving DecidableEq, Repr

/-- One entry of the schedule: what happens next. The spec fixes no order among the agents (R62, R185), so the schedule is an
input (log 1). -/
inductive Event where
  /-- The transport makes one more inbound byte available (R58). -/
  | arrive (b : Byte)
  /-- An outside user of the bare block invokes an operation (R216). -/
  | invoke (op : Invocation)
  /-- The Transmit Scheduler's thread makes its next move; the number settles what the spec leaves open there (log 8, 9). -/
  | txStep (choice : Nat)
  /-- The Receive Loop's thread makes its next move. -/
  | rxStep
  /-- A caller invokes an operation of the Control Surface. -/
  | call (c : Call)
  /-- The caller of the `k`-th unfinished call does its next field write. -/
  | caller (k : Nat)
  /-- Reset of the block, power-on, or creation of the decoder object: one event (R230). -/
  | reset
  /-- The process-wide shutdown signal (R188). -/
  | shutdown
deriving DecidableEq, Repr

end Sys2Proof
end

