-- ==== Sys2Proof/Machine/Flags.lean ====
section
/-! DEFINITION. The block has no flags (R29). What stands in their place is here: the running XOR checksum (R10, R73) and the
two conditions on the counts that select a row in `AWAIT_PAYLOAD` (R84). -/

namespace Sys2Proof.Machine

/-- `XorAll(s)`: the XOR of all bytes of a sequence, 0 for the empty one (R10). -/
def xorAll : List Byte → Byte
  | [] => 0
  | b :: bs => b ^^^ xorAll bs

/-- `Checksum(N, cmd, payload) = N ^ cmd ^ XorAll(payload)` with `N = |payload|` as a byte (R73). -/
def checksum (cmd : Byte) (payload : List Byte) : Byte :=
  BitVec.ofNat 8 payload.length ^^^ cmd ^^^ xorAll payload

/-- The next byte is a payload byte: `DEC.state = AWAIT_PAYLOAD` and `DEC.cnt < DEC.len` (R132). -/
def payloadDue (k : RowKey) : Bool :=
  decide (k.state = .awaitPayload ∧ k.cnt < k.len)

/-- The condition called `AWAIT_CHECKSUM`: `DEC.state = AWAIT_PAYLOAD` and `DEC.cnt = DEC.len` (R21). -/
def checksumDue (k : RowKey) : Bool :=
  decide (k.state = .awaitPayload ∧ k.cnt = k.len)

end Sys2Proof.Machine
end

