-- ==== Sys2Proof/Machine/Params.lean ====
section
/-! DEFINITION. The numbers this hardware gives its parameters (R7, R8). -/

namespace Sys2Proof.Machine

/-- `PRE1..3 = 24 4D 3C` for the encoder, and the same three bytes for the decoder (R7; that the decoder expects them is the
spec's decision D4, log 16). -/
def params : BlockParams :=
  { pre1 := 0x24, pre2 := 0x4D, pre3 := 0x3C, rxPre1 := 0x24, rxPre2 := 0x4D, rxPre3 := 0x3C }

/-- `FLOW_CLAMP` (R8). -/
def flowClamp : Int := 20

/-- `CH_MID` (R8; the spec's decision D22, log 24). -/
def chMid : Int := 125

/-- `CH_MIN` (R8; the spec's decision D22, log 24). -/
def chMin : Int := 0

end Sys2Proof.Machine
end

