-- ==== Sys2Proof/WellFormed.lean ====
section
/-! DEFINITION. Which operations are well formed: the conditions of the opcode table's rows that speak of the operands
alone. The conditions that speak of the decoder's state are in `Decode.lean`. -/

namespace Sys2Proof

open Sys2Proof.Machine (params)

/-- An operation whose operands its row of the table admits: a payload of at most 64 bytes (R105), a mismatching byte in a
miss row (R124, R126, R128), a length byte on the right side of 64 (R129, R130). -/
def Instr.wellFormed : Instr → Bool
  | .encCmd _ => true
  | .encPayload _ payload => decide (payload.length ≤ maxPayload)
  | .decStep => true
  | .decIdle => true
  | .decP1Match => true
  | .decP1Miss b => decide (b ≠ params.rxPre1)
  | .decP2Match => true
  | .decP2Miss b => decide (b ≠ params.rxPre2)
  | .decP3Match => true
  | .decP3Miss b => decide (b ≠ params.rxPre3)
  | .decLenOk b => decide (b.toNat ≤ maxPayload)
  | .decLenOver b => decide (maxPayload < b.toNat)
  | .decCmd _ => true
  | .decPayload _ => true
  | .decCsumOk _ => true
  | .decCsumBad _ => true

end Sys2Proof
end

