-- ==== Sys2Proof/Decode.lean ====
section
/-! DEFINITION. From words to operations and back. A decoder row is selected by the state of `DEC` and the class of the
consumed byte (R84, R88); an encoder request is read from the frame that it asks for (R74, R88; log 3). The encoder of words,
`encode`, stands after the decoder and is written from the same tables. The names the host asks with, `decodeTableWord` and what
it needs, come last. -/

namespace Sys2Proof

open Sys2Proof.Machine

/-! ## Decoding -/

/-- Why the word of an encode request is no frame (R74). -/
inductive DecodeError where
  /-- Fewer than six bytes. -/
  | tooShort
  /-- The first three bytes are not the preamble. -/
  | badPreamble
  /-- The length byte is above 64. -/
  | lengthOver
  /-- The number of bytes is not the length byte's value plus 6. -/
  | wrongLength
  /-- The last byte is not the checksum. -/
  | badChecksum
deriving DecidableEq, Repr

/-- The request that a frame stands for. A frame with length 0 is the command frame (R72, R103), any other a payload frame. -/
def requestOf (cmd : Byte) (payload : List Byte) : Instr :=
  match payload with
  | [] => .encCmd cmd
  | p :: ps => .encPayload cmd (p :: ps)

/-- Reads an encode request from its frame, by R74 item by item. -/
def decodeFrame : List Byte → Except DecodeError Instr
  | f0 :: f1 :: f2 :: n :: cmd :: body =>
    if body = [] then .error .tooShort
    else if f0 ≠ params.pre1 ∨ f1 ≠ params.pre2 ∨ f2 ≠ params.pre3 then .error .badPreamble
    else if maxPayload < n.toNat then .error .lengthOver
    else if body.length ≠ n.toNat + 1 then .error .wrongLength
    else if body.drop n.toNat ≠ [checksum cmd (body.take n.toNat)] then .error .badChecksum
    else .ok (requestOf cmd (body.take n.toNat))
  | _ => .error .tooShort

/-- The transition that a decoder step takes (R84): by `DEC.state`, then by the class of the byte. In `AWAIT_PAYLOAD` a byte
that is not a payload byte is compared with `DEC.acc`; `DEC.cnt` is then `DEC.len` in every state a run reaches (R27). -/
def selectRow (k : RowKey) : Option Byte → Instr
  | none => .decIdle
  | some b =>
    match k.state with
    | .awaitPreamble1 => if b = params.rxPre1 then .decP1Match else .decP1Miss b
    | .awaitPreamble2 => if b = params.rxPre2 then .decP2Match else .decP2Miss b
    | .awaitPreamble3 => if b = params.rxPre3 then .decP3Match else .decP3Miss b
    | .awaitLength => if b.toNat ≤ maxPayload then .decLenOk b else .decLenOver b
    | .awaitCommand => .decCmd b
    | .awaitPayload =>
      if payloadDue k then .decPayload b
      else if b = k.acc then .decCsumOk b
      else .decCsumBad b

/-- Reads the operation that an invocation asks for, given what `DEC` expects next. -/
def decode (k : RowKey) : Invocation → Except DecodeError Instr
  | .enc frame => decodeFrame frame
  | .poll => .ok .decStep
  | .rx input => .ok (selectRow k input)

/-- The condition of each row of the table, as the row states it (R84): whether the row's operation may be taken when `DEC` is
as the key says. The encoder's operations and `DEC_STEP` depend on no state. -/
def Instr.selected (k : RowKey) : Instr → Bool
  | .encCmd _ => true
  | .encPayload _ _ => true
  | .decStep => true
  | .decIdle => true
  | .decP1Match => decide (k.state = .awaitPreamble1)
  | .decP1Miss b => decide (k.state = .awaitPreamble1 ∧ b ≠ params.rxPre1)
  | .decP2Match => decide (k.state = .awaitPreamble2)
  | .decP2Miss b => decide (k.state = .awaitPreamble2 ∧ b ≠ params.rxPre2)
  | .decP3Match => decide (k.state = .awaitPreamble3)
  | .decP3Miss b => decide (k.state = .awaitPreamble3 ∧ b ≠ params.rxPre3)
  | .decLenOk b => decide (k.state = .awaitLength ∧ b.toNat ≤ maxPayload)
  | .decLenOver b => decide (k.state = .awaitLength ∧ maxPayload < b.toNat)
  | .decCmd _ => decide (k.state = .awaitCommand)
  | .decPayload _ => payloadDue k
  | .decCsumOk b => checksumDue k && decide (b = k.acc)
  | .decCsumBad b => checksumDue k && decide (b ≠ k.acc)

/-! ## Encoding -/

/-- `ENCODE(cmd, payload)` (R100): the frame laid out as in R70. -/
def encodeFrame (cmd : Byte) (payload : List Byte) : List Byte :=
  [params.pre1, params.pre2, params.pre3, BitVec.ofNat 8 payload.length, cmd] ++ payload ++ [checksum cmd payload]

/-- The word of an operation: the frame of an encode request, the consumed byte of a transition (R88). -/
def encode : Instr → Invocation
  | .encCmd cmd => .enc (encodeFrame cmd [])
  | .encPayload cmd payload => .enc (encodeFrame cmd payload)
  | .decStep => .poll
  | .decIdle => .rx none
  | .decP1Match => .rx (some params.rxPre1)
  | .decP1Miss b => .rx (some b)
  | .decP2Match => .rx (some params.rxPre2)
  | .decP2Miss b => .rx (some b)
  | .decP3Match => .rx (some params.rxPre3)
  | .decP3Miss b => .rx (some b)
  | .decLenOk b => .rx (some b)
  | .decLenOver b => .rx (some b)
  | .decCmd b => .rx (some b)
  | .decPayload b => .rx (some b)
  | .decCsumOk b => .rx (some b)
  | .decCsumBad b => .rx (some b)

/-! ## The words of the opcode table as numbers (log 2) -/

/-- The `n` low bytes of a number, the least significant first. -/
def lowBytes : Nat → Nat → List Byte
  | 0, _ => []
  | n + 1, w => BitVec.ofNat 8 w :: lowBytes n (w / 256)

/-- A 40-bit table word is a frame's header; the payload's bytes are zeros, and the checksum is the one that the row's fields
give such a frame. A longer word is a frame as it stands. -/
def completeFrame (bytes : List Byte) : List Byte :=
  match bytes with
  | [_, _, _, n, cmd] =>
    bytes ++ List.replicate n.toNat 0 ++ [checksum cmd (List.replicate n.toNat 0)]
  | _ => bytes

/-- The frame of a table word of `nbytes` bytes: offset 0 is the most significant byte (R88). -/
def tableFrame (nbytes w : Nat) : List Byte :=
  completeFrame (lowBytes nbytes w).reverse

/-- The state in which a one-byte table word selects the row of the table that gives that byte: the three preamble rows by
their byte, and any other byte the first row that takes any byte, `DEC_CMD`. -/
def tableState (b : Byte) : FsmState :=
  if b = params.rxPre1 then .awaitPreamble1
  else if b = params.rxPre2 then .awaitPreamble2
  else if b = params.rxPre3 then .awaitPreamble3
  else .awaitCommand

/-- A table word as an invocation, with the decoder state that its row names, if it names one. The table's patterns have 40 bits or
8, and a word of no bits is `DEC_STEP`. A width that is no whole number of bytes is no word of the table: it is taken as a request
that asks for no frame, and so decodes to nothing (the model's choice, log 2). -/
def tableInvocation (nbits w : Nat) : Option FsmState × Invocation :=
  if nbits % 8 = 0 then
    match nbits / 8 with
    | 0 => (none, .poll)
    | 1 => (some (tableState (BitVec.ofNat 8 w)), .rx (some (BitVec.ofNat 8 w)))
    | n => (none, .enc (tableFrame n w))
  else (none, .enc [])

/-- The operation that a table word stands for. -/
def decodeTableWord (nbits w : Nat) : Option Instr :=
  let word := tableInvocation nbits w
  match decode { state := word.1.getD .awaitPreamble1, len := 0, cnt := 0, acc := 0 } word.2 with
  | .ok i => some i
  | .error _ => none

end Sys2Proof
end

