-- ==== Sys2Proof/Machine/State.lean ====
section
/-! DEFINITION. The state: the decoder's record (R20), the transport's two streams as far as the block's rules touch them (R33),
the results of decoder steps (R16), the host's shared records and threads (42_host_environment.md), and the schedule. -/

namespace Sys2Proof.Machine

/-- The payload buffer `DEC.buf` as the list of the cells written since the buffer was last forgotten: indices strictly rising,
all below 64 (`Memory.wf`). An unlisted cell holds no value that the model knows (R31; log 5). -/
abbrev Memory := List Host.Cell

/-- The decoder's record `DEC` (R20). -/
structure Dec where
  /-- R21. -/
  state : FsmState
  /-- R22. -/
  len   : Count
  /-- R23. -/
  cmd   : Byte
  /-- R25. -/
  cnt   : Count
  /-- R26. -/
  acc   : Byte
  /-- R24, R50. -/
  buf   : Memory
  /-- The model's own: how many times the buffer has been forgotten (log 5). -/
  epoch : Nat
deriving DecidableEq, Repr

/-- A completed frame as it is handed up: command id, length and payload (R120, R133). -/
structure Frame where
  cmd     : Byte
  len     : Count
  payload : List Byte
deriving DecidableEq, Repr

/-- The result of a decoder step (R120). -/
inductive DecResult where
  | noFrame
  | frame (f : Frame)
deriving DecidableEq, Repr

/-- ControlInputs (R160). The integers are unbounded (log 22). -/
structure ControlInputs where
  roll     : Int
  pitch    : Int
  yaw      : Int
  throttle : Nat
  althold  : Nat
  flowX    : Int
  flowY    : Int
deriving DecidableEq, Repr

/-- PendingRequests (R161). -/
structure PendingRequests where
  arm     : Bool
  disarm  : Bool
  accCal  : Bool
  magCal  : Bool
  persist : Bool
  trim    : Bool
  trimDir : TrimDir
deriving DecidableEq, Repr

/-- The scheduler's three phases (R166). -/
inductive Phase where
  | command
  | control
  | request
deriving DecidableEq, Repr

/-- Where the Transmit Scheduler's thread stands. -/
inductive TxPos where
  /-- Not started, or ended. -/
  | stopped
  /-- At the start of a tick, about to check the shutdown flag (R167). -/
  | tick (ph : Phase)
  /-- Command phase: about to test a request flag (R168). -/
  | test (f : ReqFlag)
  /-- Command phase: the flag was found set; about to emit its frame. -/
  | emit (f : ReqFlag) (cleared : Bool)
  /-- Command phase: the frame is out; about to clear the flag. -/
  | clear (f : ReqFlag)
  /-- Control phase: fields still to read, and the local copy so far (R171). -/
  | read (todo : List CtlField) (got : ControlInputs)
  /-- Control phase: about to compose and emit the payload frame. -/
  | compose (got : ControlInputs)
  /-- Telemetry-request phase: about to emit (R173). -/
  | request
deriving DecidableEq, Repr

/-- Where the Receive Loop's thread stands (R175). -/
inductive RxPos where
  /-- Not started, or ended. -/
  | stopped
  /-- At the start of an iteration, about to check the shutdown flag and poll. -/
  | poll
  /-- Holding the result of its poll. -/
  | handle (r : DecResult)
deriving DecidableEq, Repr

/-- The whole state. -/
structure State where
  /-- The decoder instance (R20). -/
  dec       : Dec
  /-- The unread inbound bytes, oldest first (R33, R34). -/
  rx        : List Byte
  /-- Every byte written with TxWrite, in order (R16, R34). -/
  tx        : List Byte
  /-- The result of the most recent decoder step (R120; log 19). -/
  result    : DecResult
  /-- Every frame handed up, in order (R16; log 19). -/
  delivered : List Frame
  /-- ControlInputs (R160). -/
  ctl       : ControlInputs
  /-- PendingRequests (R161). -/
  req       : PendingRequests
  /-- TelemetrySnapshot (R162); `none` until the first sensor report, and then read as a free value (R164; log 6). -/
  snapshot  : Option (List Byte)
  /-- The shared shutdown flag (R188). -/
  shutdown  : Bool
  /-- The Transmit Scheduler's thread (R166). -/
  txPos     : TxPos
  /-- The Receive Loop's thread (R175). -/
  rxPos     : RxPos
  /-- Control Surface calls with field writes still to do (R187; log 8). -/
  calls     : List (List FieldWrite)
  /-- What the telemetry getter has returned, in order (R183; log 19). -/
  reads     : List (List Byte)
  /-- What happens next (log 1). -/
  schedule  : List Event
deriving DecidableEq, Repr

/-- The reasons to stop with a fault: none. The spec gives the block no fault outcome (R200, R217; log 28). -/
inductive Fault
deriving DecidableEq, Repr

/-- The reasons to refuse. -/
inductive Refusal where
  /-- An operation without a meaning in this model; raised by `exec` alone, for no operation now. Safe. -/
  | notModelled (mnemonic : String)
  /-- `ENC_PAYLOAD` with more than 64 payload bytes; raised by `execEncPayload` (R105, U1; log 27). Safe. -/
  | payloadTooLong
  /-- A transition whose selecting condition does not hold; raised by the thirteen transitions (R84, R139; log 4). Safe. -/
  | notSelected
  /-- The word of an encode request is no frame; raised by the fetch of an invocation (R74, R107; log 3). Safe. -/
  | notAFrame
  /-- A second user of `DEC` or of the encoder while the loop that owns it runs; raised by the fetch of an invocation
  (R239, U14; log 10). Safe. -/
  | secondUser
  /-- A channel sum that does not fit a byte; raised by the control phase (R172, U7; log 23). Safe. -/
  | channelOutOfRange
  /-- Start while a loop still runs; raised by the Control Surface's start (R213, U14; log 11). Safe. -/
  | alreadyRunning
deriving DecidableEq, Repr

/-- `DEC` after reset (R30; the zeros are the spec's decision D5, log 25), with no buffer cell written (R31). -/
def Dec.reset : Dec :=
  { state := .awaitPreamble1, len := 0, cmd := 0, cnt := 0, acc := 0, buf := [], epoch := 0 }

/-- ControlInputs at the start: all 0 (R164; the spec's decision D30, log 25). -/
def ControlInputs.neutral : ControlInputs :=
  { roll := 0, pitch := 0, yaw := 0, throttle := 0, althold := 0, flowX := 0, flowY := 0 }

/-- PendingRequests at the start: all false (R164; D30, log 25); the trim direction is the model's choice (log 7). -/
def PendingRequests.none : PendingRequests :=
  { arm := false, disarm := false, accCal := false, magCal := false, persist := false, trim := false, trimDir := .up }

/-- The machine right after reset: `DEC` as R30 says, the host's records as R164 says, nothing started and nothing scheduled
(log 1, 19). -/
def State.reset : State :=
  { dec := .reset, rx := [], tx := [], result := .noFrame, delivered := [], ctl := .neutral, req := .none,
    snapshot := .none, shutdown := false, txPos := .stopped, rxPos := .stopped, calls := [], reads := [], schedule := [] }

end Sys2Proof.Machine
end

