-- ==== Sys2Proof/Machine/Ops.lean ====
section
/-! DEFINITION. The named operations over the state: the payload buffer, the transport, the fields of `DEC`, `Resync()` (the
block's whole response to an error, R207), the result of a decoder step, and the fields of the host's records. -/

namespace Sys2Proof.Machine

/-! ## The payload buffer (R50) -/

/-- `MemRead(i, 1)`: what is known of cell `i`; nothing where it has not been written (R31). -/
def Memory.read : Memory → Nat → Option Byte
  | [], _ => none
  | c :: m, i => if c.1 = i then some c.2 else Memory.read m i

/-- `MemWrite(i, 1, v)`, keeping the cells in rising order. -/
def Memory.write : Memory → Nat → Byte → Memory
  | [], i, v => [(i, v)]
  | c :: m, i, v =>
    if i < c.1 then (i, v) :: c :: m
    else if i = c.1 then (i, v) :: m
    else c :: Memory.write m i v

/-- The canonical form: indices strictly rising from `lo` on, all below 64. -/
def Memory.wfFrom : Nat → Memory → Bool
  | _, [] => true
  | lo, c :: m => decide (lo ≤ c.1) && decide (c.1 < maxPayload) && Memory.wfFrom (c.1 + 1) m

/-- The canonical form of the buffer (R50: indices 0 to 63). -/
def Memory.wf (m : Memory) : Bool := Memory.wfFrom 0 m

/-! ## The decoder's record -/

/-- What selects a decoder row in this record (R84). -/
def Dec.key (d : Dec) : RowKey :=
  { state := d.state, len := d.len, cnt := d.cnt, acc := d.acc }

/-- `DEC.buf[i]`: the byte last written there, or the free value of an unwritten cell (R24, U2; log 5). -/
def Dec.bufByte (d : Dec) (i : Nat) : Byte :=
  (d.buf.read i).getD (Config.unwrittenByte d.epoch i)

/-- `DEC.buf[0 .. n-1]`. -/
def Dec.bufPrefix (d : Dec) (n : Nat) : List Byte :=
  (List.range n).map d.bufByte

/-- `Resync()` (R121): the reset state, with the buffer untouched. Every error ends in it, and nothing is saved and nothing
returned to (R207, R208). -/
def Dec.resync (d : Dec) : Dec :=
  { d with state := .awaitPreamble1, len := 0, cmd := 0, cnt := 0, acc := 0 }

/-- Reset of the block (R230): the effect of `Resync()` plus forgetting the buffer. -/
def Dec.powerOn (d : Dec) : Dec :=
  { d.resync with buf := [], epoch := d.epoch + 1 }

/-- `DEC.acc <- DEC.acc ^ b`. -/
def Dec.fold (b : Byte) (d : Dec) : Dec :=
  { d with acc := d.acc ^^^ b }

/-- The frame that `DEC_CSUM_OK` hands up, taken from the fields as they stand (R133). -/
def Dec.completed (d : Dec) : Frame :=
  { cmd := d.cmd, len := d.len, payload := d.bufPrefix d.len }

/-! ## The block's step -/

/-- The result of a decoder step: handed up in that step (R120), and a frame recorded (R16). -/
def State.answer (r : DecResult) (s : State) : State :=
  match r with
  | .noFrame => { s with result := .noFrame }
  | .frame f => { s with result := .frame f, delivered := s.delivered ++ [f] }

/-- Takes one row of the decoder's table: where the row's condition holds, `DEC` becomes `d` and the step answers `r`; where it
does not, the row is not taken (log 4). -/
def State.takeRow (row : Instr) (d : Dec) (r : DecResult) (s : State) : Host.Outcome State Fault Refusal :=
  if row.selected s.dec.key then .next (({ s with dec := d } : State).answer r) else .refused .notSelected

/-- What follows a step: the next step where there is a next state, the same stop where there is none. -/
def andThen (o : Host.Outcome State Fault Refusal) (k : State → Host.Outcome State Fault Refusal) :
    Host.Outcome State Fault Refusal :=
  match o with
  | .next s => k s
  | .fault r => .fault r
  | .refused r => .refused r

/-! ## The transport (R54 to R57) -/

/-- `TxWrite(b)` (R57). -/
def State.txWrite (b : Byte) (s : State) : State :=
  { s with tx := s.tx ++ [b] }

/-- `RxAvail()` (R55). -/
def State.rxAvail (s : State) : Bool :=
  !s.rx.isEmpty

/-- `RxRead()` where a byte is available: the oldest unread byte is removed (R56). -/
def State.rxRead (s : State) : State :=
  { s with rx := s.rx.tail }

/-- The transport makes one more byte available, behind those already waiting (R58, R61). -/
def State.arrive (b : Byte) (s : State) : State :=
  { s with rx := s.rx ++ [b] }

/-! ## The host's records -/

/-- One field of ControlInputs, copied from one record into another: a read of one field (R187). -/
def ControlInputs.copyField (src : ControlInputs) (f : CtlField) (dst : ControlInputs) : ControlInputs :=
  match f with
  | .roll => { dst with roll := src.roll }
  | .pitch => { dst with pitch := src.pitch }
  | .yaw => { dst with yaw := src.yaw }
  | .throttle => { dst with throttle := src.throttle }
  | .althold => { dst with althold := src.althold }
  | .flowX => { dst with flowX := src.flowX }
  | .flowY => { dst with flowY := src.flowY }

/-- A request flag (R161). -/
def PendingRequests.get (q : PendingRequests) : ReqFlag → Bool
  | .arm => q.arm
  | .disarm => q.disarm
  | .accCal => q.accCal
  | .magCal => q.magCal
  | .persist => q.persist
  | .trim => q.trim

/-- A request flag given a value (R161). -/
def PendingRequests.set (q : PendingRequests) (f : ReqFlag) (v : Bool) : PendingRequests :=
  match f with
  | .arm => { q with arm := v }
  | .disarm => { q with disarm := v }
  | .accCal => { q with accCal := v }
  | .magCal => { q with magCal := v }
  | .persist => { q with persist := v }
  | .trim => { q with trim := v }

/-- One write of one field (R187). -/
def State.write (w : FieldWrite) (s : State) : State :=
  match w with
  | .roll v => { s with ctl := { s.ctl with roll := v } }
  | .pitch v => { s with ctl := { s.ctl with pitch := v } }
  | .yaw v => { s with ctl := { s.ctl with yaw := v } }
  | .throttle v => { s with ctl := { s.ctl with throttle := v } }
  | .althold v => { s with ctl := { s.ctl with althold := v } }
  | .flowX v => { s with ctl := { s.ctl with flowX := v } }
  | .flowY v => { s with ctl := { s.ctl with flowY := v } }
  | .flag f => { s with req := s.req.set f true }
  | .trimDir d => { s with req := { s.req with trimDir := d } }

end Sys2Proof.Machine
end

