-- ==== Sys2Proof/Machine/ControlSurface.lean ====
section
/-! DEFINITION. The Control Surface (R178 to R184). A setter is a list of single-field writes; the caller does the first as it
calls and any others later, one at a time, so that other threads can come between (R187, U8; log 8). -/

namespace Sys2Proof.Machine

/-- `clamp(v, lo, hi)` to `[-FLOW_CLAMP, FLOW_CLAMP]` (R181). -/
def clampFlow (v : Int) : Int :=
  if v < -flowClamp then -flowClamp else if flowClamp < v then flowClamp else v

/-- The field writes of a call, in the order of its rule (R179 to R182). Start and the getter write no field. -/
def callWrites (p : HostParams) : Call → List FieldWrite
  | .start => []
  | .setRoll v => [.roll v]
  | .setPitch v => [.pitch v]
  | .setYaw v => [.yaw v]
  | .resetNeutral => [.roll 0, .pitch 0, .yaw 0]
  | .setThrottle v => [.throttle v]
  | .setAlthold on => [.althold (if on then p.altholdOn.toNat else 0)]
  | .setFlow x y => [.flowX (clampFlow x), .flowY (clampFlow y)]
  | .requestArm => [.flag .arm]
  | .requestDisarm => [.flag .disarm]
  | .requestAccCal => [.flag .accCal]
  | .requestMagCal => [.flag .magCal]
  | .requestPersist => [.flag .persist]
  | .requestTrim d => [.trimDir d, .flag .trim]
  | .getTelemetry => []

/-- The first write of a call; the rest wait for their caller. -/
def State.beginWrites (ws : List FieldWrite) (s : State) : State :=
  match ws with
  | [] => s
  | [w] => s.write w
  | w :: rest => { s.write w with calls := s.calls ++ [rest] }

/-- What the getter returns: a copy of the snapshot, or, before the first report, a free value (R183, R164; log 6). -/
def State.telemetry (s : State) : List Byte :=
  s.snapshot.getD (Config.initialSnapshot s.reads.length)

/-- Initialise/start (R184): `DEC` is created in its reset state (R230) and the two loops begin, the scheduler with its command
phase (R166, D28). Refused while a loop still runs (log 11). -/
def startLoops (s : State) : Host.Outcome State Fault Refusal :=
  if s.txPos = .stopped ∧ s.rxPos = .stopped then
    .next { s with dec := s.dec.powerOn, txPos := .tick .command, rxPos := .poll }
  else .refused .alreadyRunning

/-- One operation of the Control Surface (R178). -/
def callSurface (p : HostParams) (c : Call) (s : State) : Host.Outcome State Fault Refusal :=
  match c with
  | .start => startLoops s
  | .getTelemetry => .next { s with reads := s.reads ++ [s.telemetry] }
  | c => .next (s.beginWrites (callWrites p c))

/-- The caller of the `k`-th unfinished call does its next write; nothing where there is no such call (log 12). -/
def State.callerStep (k : Nat) (s : State) : State :=
  match s.calls[k]? with
  | none => s
  | some [] => { s with calls := s.calls.eraseIdx k }
  | some [w] => { s.write w with calls := s.calls.eraseIdx k }
  | some (w :: rest) => { s.write w with calls := s.calls.set k rest }

end Sys2Proof.Machine
end

