-- ==== Sys2Proof/Machine/Operands.lean ====
section
/-! DEFINITION. The operand forms of the block's operations (R85): a command id (any byte, used as it stands, R109), a payload of
at most 64 bytes (R105), and the decoder's implicit operand, the transport's next inbound byte, if any. -/

namespace Sys2Proof.Machine

/-- The precondition of `encode_payload`: `payload.length ≤ 64` (R102, R105). -/
def payloadFits (payload : List Byte) : Bool :=
  decide (payload.length ≤ maxPayload)

/-- The decoder's implicit operand: the oldest unread byte where `RxAvail()` answers true, else none (R137). -/
def State.pollInput (s : State) : Option Byte :=
  if s.rxAvail then s.rx.head? else none

/-- The transport after that operand is fetched: exactly one `RxRead()` where a byte was available, none where not (R137). -/
def State.afterPoll (s : State) : State :=
  if s.rxAvail then s.rxRead else s

end Sys2Proof.Machine
end

