-- ==== Sys2Proof/Machine/Decoder.lean ====
section
/-! DEFINITION. The decoder's thirteen transitions and its step (41_decoder.md). Each transition is taken only where its row's
condition holds (`State.takeRow`). -/

namespace Sys2Proof.Machine

/-- `DEC_IDLE` (R122): `DEC` is unchanged in every field. -/
def execDecIdle (s : State) : Host.Outcome State Fault Refusal :=
  s.takeRow .decIdle s.dec .noFrame

/-- `DEC_P1_MATCH` (R123). -/
def execDecP1Match (s : State) : Host.Outcome State Fault Refusal :=
  s.takeRow .decP1Match { s.dec with state := .awaitPreamble2 } .noFrame

/-- `DEC_P1_MISS` (R124). -/
def execDecP1Miss (b : Byte) (s : State) : Host.Outcome State Fault Refusal :=
  s.takeRow (.decP1Miss b) s.dec.resync .noFrame

/-- `DEC_P2_MATCH` (R125). -/
def execDecP2Match (s : State) : Host.Outcome State Fault Refusal :=
  s.takeRow .decP2Match { s.dec with state := .awaitPreamble3 } .noFrame

/-- `DEC_P2_MISS` (R126): the byte is consumed and not examined again (R136). -/
def execDecP2Miss (b : Byte) (s : State) : Host.Outcome State Fault Refusal :=
  s.takeRow (.decP2Miss b) s.dec.resync .noFrame

/-- `DEC_P3_MATCH` (R127). -/
def execDecP3Match (s : State) : Host.Outcome State Fault Refusal :=
  s.takeRow .decP3Match { s.dec with state := .awaitLength } .noFrame

/-- `DEC_P3_MISS` (R128). -/
def execDecP3Miss (b : Byte) (s : State) : Host.Outcome State Fault Refusal :=
  s.takeRow (.decP3Miss b) s.dec.resync .noFrame

/-- `DEC_LEN_OK` (R129): `DEC.len <- b`, `DEC.acc <- DEC.acc ^ b`. -/
def execDecLenOk (b : Byte) (s : State) : Host.Outcome State Fault Refusal :=
  s.takeRow (.decLenOk b) { s.dec.fold b with len := countOf b.toNat, state := .awaitCommand } .noFrame

/-- `DEC_LEN_OVER` (R130): the length is not stored. -/
def execDecLenOver (b : Byte) (s : State) : Host.Outcome State Fault Refusal :=
  s.takeRow (.decLenOver b) s.dec.resync .noFrame

/-- `DEC_CMD` (R131): `DEC.cmd <- b`, `DEC.acc <- DEC.acc ^ b`. -/
def execDecCmd (b : Byte) (s : State) : Host.Outcome State Fault Refusal :=
  s.takeRow (.decCmd b) { s.dec.fold b with cmd := b, state := .awaitPayload } .noFrame

/-- `DEC_PAYLOAD` (R132): `DEC.buf[DEC.cnt] <- b`, `DEC.acc <- DEC.acc ^ b`, `DEC.cnt <- DEC.cnt + 1`. -/
def execDecPayload (b : Byte) (s : State) : Host.Outcome State Fault Refusal :=
  s.takeRow (.decPayload b)
    { s.dec.fold b with buf := s.dec.buf.write s.dec.cnt b, cnt := countOf (s.dec.cnt + 1) } .noFrame

/-- `DEC_CSUM_OK` (R133): the frame is taken before `Resync()`. -/
def execDecCsumOk (b : Byte) (s : State) : Host.Outcome State Fault Refusal :=
  s.takeRow (.decCsumOk b) s.dec.resync (.frame s.dec.completed)

/-- `DEC_CSUM_BAD` (R134): the frame is dropped without a word. -/
def execDecCsumBad (b : Byte) (s : State) : Host.Outcome State Fault Refusal :=
  s.takeRow (.decCsumBad b) s.dec.resync .noFrame

/-- The transition that a step resolves to (R120); the other operations are no transitions. -/
def execTransition (row : Instr) (s : State) : Host.Outcome State Fault Refusal :=
  match row with
  | .decIdle => execDecIdle s
  | .decP1Match => execDecP1Match s
  | .decP1Miss b => execDecP1Miss b s
  | .decP2Match => execDecP2Match s
  | .decP2Miss b => execDecP2Miss b s
  | .decP3Match => execDecP3Match s
  | .decP3Miss b => execDecP3Miss b s
  | .decLenOk b => execDecLenOk b s
  | .decLenOver b => execDecLenOver b s
  | .decCmd b => execDecCmd b s
  | .decPayload b => execDecPayload b s
  | .decCsumOk b => execDecCsumOk b s
  | .decCsumBad b => execDecCsumBad b s
  | .encCmd _ | .encPayload _ _ | .decStep => .refused .notSelected

/-- `DEC_STEP` (R120) against the transport (`DEC_POLL`, R137): it fetches the next inbound byte, if one is available, and takes
the one transition that R84 selects. -/
def execDecStep (s : State) : Host.Outcome State Fault Refusal :=
  execTransition (selectRow s.dec.key s.pollInput) s.afterPoll

end Sys2Proof.Machine
end

