-- ==== Sys2Proof/Machine/Encoder.lean ====
section
/-! DEFINITION. The encoder's two operations (40_encoder.md), written as the pseudocode of R101 and R102. -/

namespace Sys2Proof.Machine

/-- Writes the payload in order, folding each byte into the running checksum (R102, R104); the checksum byte comes last. -/
def State.txPayload : List Byte → Byte → State → State
  | [], ck, s => s.txWrite ck
  | p :: ps, ck, s => State.txPayload ps (ck ^^^ p) (s.txWrite p)

/-- `ENC_CMD cmd` (R101). -/
def execEncCmd (cmd : Byte) (s : State) : Host.Outcome State Fault Refusal :=
  .next ((((((s.txWrite params.pre1).txWrite params.pre2).txWrite params.pre3).txWrite 0x00).txWrite cmd).txWrite cmd)

/-- `ENC_PAYLOAD cmd, payload` (R102); refused where the payload has more than 64 bytes (R105; log 27). -/
def execEncPayload (cmd : Byte) (payload : List Byte) (s : State) : Host.Outcome State Fault Refusal :=
  if payloadFits payload then
    let n : Byte := BitVec.ofNat 8 payload.length
    .next (State.txPayload payload (n ^^^ cmd)
      (((((s.txWrite params.pre1).txWrite params.pre2).txWrite params.pre3).txWrite n).txWrite cmd))
  else .refused .payloadTooLong

end Sys2Proof.Machine
end

