-- ==== Sys2Proof/Machine/Dispatch.lean ====
section
/-! DEFINITION. The meaning of each operation: one arm per constructor of `Instr`. -/

namespace Sys2Proof.Machine

def exec (i : Instr) (s : State) : Host.Outcome State Fault Refusal :=
  match i with
  | .encCmd cmd => Sys2Proof.Machine.execEncCmd cmd s
  | .encPayload cmd payload => Sys2Proof.Machine.execEncPayload cmd payload s
  | .decStep => Sys2Proof.Machine.execDecStep s
  | .decIdle => Sys2Proof.Machine.execDecIdle s
  | .decP1Match => Sys2Proof.Machine.execDecP1Match s
  | .decP1Miss b => Sys2Proof.Machine.execDecP1Miss b s
  | .decP2Match => Sys2Proof.Machine.execDecP2Match s
  | .decP2Miss b => Sys2Proof.Machine.execDecP2Miss b s
  | .decP3Match => Sys2Proof.Machine.execDecP3Match s
  | .decP3Miss b => Sys2Proof.Machine.execDecP3Miss b s
  | .decLenOk b => Sys2Proof.Machine.execDecLenOk b s
  | .decLenOver b => Sys2Proof.Machine.execDecLenOver b s
  | .decCmd b => Sys2Proof.Machine.execDecCmd b s
  | .decPayload b => Sys2Proof.Machine.execDecPayload b s
  | .decCsumOk b => Sys2Proof.Machine.execDecCsumOk b s
  | .decCsumBad b => Sys2Proof.Machine.execDecCsumBad b s

end Sys2Proof.Machine
end

