-- ==== Sys2Proof/Machine/ReceiveLoop.lean ====
section
/-! DEFINITION. The Receive Loop (R175 to R177): it polls the decoder, and where the poll hands up a sensor report it replaces the
snapshot. -/

namespace Sys2Proof.Machine

/-- What the loop does with the result of its poll (R175): a sensor report replaces the snapshot whole (R177; log 14), any other
frame is dropped. -/
def State.handleResult (p : HostParams) (r : DecResult) (s : State) : State :=
  match r with
  | .noFrame => s
  | .frame f => if f.cmd = p.cmdSensorReport then { s with snapshot := some f.payload } else s

/-- One move of the loop's thread (log 26): it checks the shutdown flag (R188) and polls (R137), then deals with the result. The
thread does nothing where it is stopped (log 12). -/
def rxStep (p : HostParams) (s : State) : Host.Outcome State Fault Refusal :=
  match s.rxPos with
  | .stopped => .next s
  | .poll =>
    if s.shutdown then .next { s with rxPos := .stopped }
    else andThen (exec .decStep s) fun s' => .next { s' with rxPos := .handle s'.result }
  | .handle r => .next { s.handleResult p r with rxPos := .poll }

end Sys2Proof.Machine
end

