-- ==== Sys2Proof/Machine/Scheduler.lean ====
section
/-! DEFINITION. The Transmit Scheduler (R166 to R174): a thread that moves one access of shared state, or one encode operation,
at a time. -/

namespace Sys2Proof.Machine

/-- The flag that the command phase looks at after this one (R168: arm, disarm, accelerometer-calibrate,
magnetometer-calibrate, persist-settings, trim). -/
def nextFlag : ReqFlag → Option ReqFlag
  | .arm => some .disarm
  | .disarm => some .accCal
  | .accCal => some .magCal
  | .magCal => some .persist
  | .persist => some .trim
  | .trim => none

/-- Where the thread stands once it is done with a flag: at the next flag, or at the next tick, for the control phase. -/
def afterFlag (f : ReqFlag) : TxPos :=
  match nextFlag f with
  | some g => .test g
  | none => .tick .control

/-- The command id for a trim direction (R169). -/
def trimId (p : HostParams) : TrimDir → Byte
  | .up => p.cmdTrimUp
  | .down => p.cmdTrimDown
  | .left => p.cmdTrimLeft
  | .right => p.cmdTrimRight

/-- `CommandIdOf(flag)` (R168, R169): for trim, the id of the direction stored now. -/
def commandIdOf (p : HostParams) (q : PendingRequests) : ReqFlag → Byte
  | .arm => p.cmdArm
  | .disarm => p.cmdDisarm
  | .accCal => p.cmdAccCal
  | .magCal => p.cmdMagCal
  | .persist => p.cmdPersist
  | .trim => trimId p q.trimDir

/-- The seven fields of ControlInputs, each read once in the control phase (R171). -/
def allFields : List CtlField := [.roll, .flowX, .pitch, .flowY, .yaw, .throttle, .althold]

/-- A channel value as a byte, where it fits one (R172). -/
def channelByte (v : Int) : Option Byte :=
  if 0 ≤ v ∧ v ≤ 255 then some (BitVec.ofInt 8 v) else none

/-- The five channel values, before they are put in bytes (R172; the pairing of flow and axis is the spec's decision D21,
log 24). -/
def channelSums (c : ControlInputs) : List Int :=
  [chMid + c.roll + c.flowX, chMid + c.pitch + c.flowY, chMid + c.yaw, chMin + c.throttle, chMin + c.althold]

/-- Bytes for all of the values, or none where some value does not fit (R172; log 23). -/
def channelBytes : List Int → Option (List Byte)
  | [] => some []
  | v :: vs =>
    match channelByte v, channelBytes vs with
    | some b, some bs => some (b :: bs)
    | _, _ => none

/-- The control-inputs payload (R82, R172). -/
def controlPayload (c : ControlInputs) : Option (List Byte) :=
  channelBytes (channelSums c)

/-- Puts the scheduler's thread at a position. -/
def State.txAt (pos : TxPos) (s : State) : State :=
  { s with txPos := pos }

/-- An encode operation that the scheduler issues (R174), and the position after it. -/
def txIssue (i : Instr) (pos : TxPos) (s : State) : Host.Outcome State Fault Refusal :=
  andThen (exec i s) fun s' => .next (s'.txAt pos)

/-- Where a phase begins (R168, R171, R173). -/
def phaseStart : Phase → TxPos
  | .command => .test .arm
  | .control => .read allFields .neutral
  | .request => .request

/-- One move of the scheduler's thread. The choice settles, for a flag found set, whether it is cleared together with the test or
after its frame is out (U13; log 9), and, in the control phase, which field is read next (U8; log 8). The thread does
nothing where it is stopped (log 12). -/
def txStep (p : HostParams) (choice : Nat) (s : State) : Host.Outcome State Fault Refusal :=
  match s.txPos with
  | .stopped => .next s
  | .tick ph => .next (s.txAt (if s.shutdown then .stopped else phaseStart ph))
  | .test f =>
    if s.req.get f then
      if choice = 0 then .next (s.txAt (.emit f false))
      else .next (({ s with req := s.req.set f false } : State).txAt (.emit f true))
    else .next (s.txAt (afterFlag f))
  | .emit f cleared =>
    txIssue (.encCmd (commandIdOf p s.req f)) (if cleared then afterFlag f else .clear f) s
  | .clear f => .next (({ s with req := s.req.set f false } : State).txAt (afterFlag f))
  | .read [] got => .next (s.txAt (.compose got))
  | .read (f :: fs) got =>
    let k := choice % (fs.length + 1)
    .next (s.txAt (.read ((f :: fs).eraseIdx k) (s.ctl.copyField ((f :: fs).getD k f) got)))
  | .compose got =>
    match controlPayload got with
    | some payload => txIssue (.encPayload p.cmdSetControl payload) (.tick .request) s
    | none => .refused .channelOutOfRange
  | .request => txIssue (.encCmd p.cmdReqSensor) (.tick .command) s

end Sys2Proof.Machine
end

