-- ==== Sys2Proof/Machine/Link.lean ====
section
/-! DEFINITION. The fetch of an operation, and what each entry of the schedule does. -/

namespace Sys2Proof.Machine

/-- Whether the loop that owns this half of the block runs: the Receive Loop for `DEC`, the Transmit Scheduler for the encoder
(R210, R239). -/
def State.owned (op : Invocation) (s : State) : Bool :=
  match op with
  | .enc _ => decide (s.txPos ≠ .stopped)
  | .poll => decide (s.rxPos ≠ .stopped)
  | .rx _ => decide (s.rxPos ≠ .stopped)

/-- An outside user invokes the block: the invocation is decoded, with what `DEC` expects, and the operation runs. A second user is
refused (U14; log 10), and so is a request whose word is no frame (log 3). -/
def invokeBlock (op : Invocation) (s : State) : Host.Outcome State Fault Refusal :=
  if s.owned op then .refused .secondUser
  else
    match decode s.dec.key op with
    | .ok i => exec i s
    | .error _ => .refused .notAFrame

/-- What one entry of the schedule does. -/
def runEvent (p : HostParams) (e : Event) (s : State) : Host.Outcome State Fault Refusal :=
  match e with
  | .arrive b => .next (s.arrive b)
  | .invoke op => invokeBlock op s
  | .txStep choice => txStep p choice s
  | .rxStep => rxStep p s
  | .call c => callSurface p c s
  | .caller k => .next (s.callerStep k)
  | .reset => .next { s with dec := s.dec.powerOn }
  | .shutdown => .next { s with shutdown := true }

/-- A table word put where the next step fetches: first in the schedule, with `DEC` in the state that the word's row names, and no
loop running that owns the block (log 2). -/
def State.placeWord (s : State) (nbits w : Nat) : State :=
  let word := tableInvocation nbits w
  { s with
    dec := { s.dec with state := word.1.getD s.dec.state }
    txPos := .stopped
    rxPos := .stopped
    schedule := .invoke word.2 :: s.schedule }

end Sys2Proof.Machine
end

