-- ==== Sys2Proof/Safety.lean ====
section
/-! DEFINITION. The terms that claims are made in: running several operations or events, well-formed frames (R74), the reset state
of `DEC` (R30), the invariants of R27 and R160, and the shape of the outbound stream (R60). -/

namespace Sys2Proof.Machine

/-! ## Runs -/

/-- Events one after the other, for any values of the host's OPEN parameters. -/
def runEvents (p : HostParams) : List Event → State → Host.Outcome State Fault Refusal
  | [], s => .next s
  | e :: es, s => andThen (runEvent p e s) (runEvents p es)

/-- `RX` lines one after the other (R86), and so `DECODE` (R87): each input is decoded with what `DEC` expects and its
transition taken. It gives the last state and the result of each step, in order, and nothing where a step stops. -/
def feed : List (Option Byte) → State → Option (State × List DecResult)
  | [], s => some (s, [])
  | x :: xs, s =>
    match exec (selectRow s.dec.key x) s with
    | .next s' => (feed xs s').map fun q => (q.1, s'.result :: q.2)
    | _ => none

/-- Whether an operation is one of the thirteen transitions (R84). -/
def isTransition : Instr → Bool
  | .encCmd _ | .encPayload _ _ | .decStep => false
  | .decIdle | .decP1Match | .decP1Miss _ | .decP2Match | .decP2Miss _ | .decP3Match | .decP3Miss _ | .decLenOk _
  | .decLenOver _ | .decCmd _ | .decPayload _ | .decCsumOk _ | .decCsumBad _ => true

/-! ## Frames -/

/-- `f` is a well-formed frame with content `(cmd, n, payload)`, by R74 item by item. -/
def IsFrame (f : List Byte) (cmd n : Byte) (payload : List Byte) : Prop :=
  6 ≤ f.length ∧ f[0]? = some params.pre1 ∧ f[1]? = some params.pre2 ∧ f[2]? = some params.pre3 ∧
  f[3]? = some n ∧ f[4]? = some cmd ∧ n.toNat ≤ maxPayload ∧ f.length = n.toNat + 6 ∧
  payload = (f.drop 5).take n.toNat ∧ f[5 + n.toNat]? = some (n ^^^ cmd ^^^ xorAll payload)

/-- The outbound stream is a concatenation of whole frames (R60). -/
def WholeFrames (tx : List Byte) : Prop :=
  ∃ reqs : List (Byte × List Byte), (∀ r ∈ reqs, r.2.length ≤ maxPayload) ∧
    tx = reqs.flatMap fun r => encodeFrame r.1 r.2

/-! ## The decoder -/

/-- `DEC` is in the reset state of R30; the buffer's contents are not part of it. -/
def Dec.AtReset (d : Dec) : Prop :=
  d.state = .awaitPreamble1 ∧ d.len = 0 ∧ d.cmd = 0 ∧ d.cnt = 0 ∧ d.acc = 0

/-- The four items of R27; that `DEC.len` is at most 64 is in its type. -/
structure Dec.Consistent (d : Dec) : Prop where
  /-- Item 1. -/
  countBounded : d.cnt ≤ d.len
  /-- Item 2. -/
  beforeLength : d.state = .awaitPreamble1 ∨ d.state = .awaitPreamble2 ∨ d.state = .awaitPreamble3 ∨ d.state = .awaitLength →
    d.len = 0 ∧ d.cmd = 0 ∧ d.cnt = 0 ∧ d.acc = 0
  /-- Item 3. -/
  beforeCommand : d.state = .awaitCommand → d.cnt = 0 ∧ d.cmd = 0 ∧ d.acc = BitVec.ofNat 8 d.len
  /-- Item 4. -/
  inPayload : d.state = .awaitPayload → d.acc = BitVec.ofNat 8 d.len ^^^ d.cmd ^^^ xorAll (d.bufPrefix d.cnt)

/-- The invariant of the decoder: R27, with what R24 and R50 say of the buffer. -/
structure Dec.Inv (d : Dec) : Prop extends d.Consistent where
  /-- Every cell below `DEC.cnt` has been written (R24). -/
  written : ∀ i, i < d.cnt.val → ∃ v, d.buf.read i = some v
  /-- The buffer's list is in its canonical form (R50). -/
  canonical : d.buf.wf = true

/-- The states of R139's table that a consuming step may reach. -/
def fsmSuccessors : FsmState → List FsmState
  | .awaitPreamble1 => [.awaitPreamble2, .awaitPreamble1]
  | .awaitPreamble2 => [.awaitPreamble3, .awaitPreamble1]
  | .awaitPreamble3 => [.awaitLength, .awaitPreamble1]
  | .awaitLength => [.awaitCommand, .awaitPreamble1]
  | .awaitCommand => [.awaitPayload]
  | .awaitPayload => [.awaitPayload, .awaitPreamble1]

/-! ## The host -/

/-- A flow-compensation offset within `[-20, 20]` (R160). -/
def FlowOk (v : Int) : Prop := -20 ≤ v ∧ v ≤ 20

/-- A field write that keeps R160's ranges. -/
def WriteOk : FieldWrite → Prop
  | .flowX v => FlowOk v
  | .flowY v => FlowOk v
  | _ => True

/-- The flow offsets are within their range (R160), and no unfinished call will write one that is not. -/
def FlowClamped (s : State) : Prop :=
  FlowOk s.ctl.flowX ∧ FlowOk s.ctl.flowY ∧ ∀ ws ∈ s.calls, ∀ w ∈ ws, WriteOk w

/-- The scheduler's phase at a position; none where it is stopped. -/
def phaseOf : TxPos → Option Phase
  | .stopped => none
  | .tick ph => some ph
  | .test _ | .emit _ _ | .clear _ => some .command
  | .read _ _ | .compose _ => some .control
  | .request => some .request

/-- The phase that follows (R166). -/
def nextPhase : Phase → Phase
  | .command => .control
  | .control => .request
  | .request => .command

/-- A caller's request of a flag (R182), whole: a trim request's flag is its caller's second write (log 8), and `k` calls are
unfinished before it. -/
def requestEvents (f : ReqFlag) (d : TrimDir) (k : Nat) : List Event :=
  match f with
  | .arm => [.call .requestArm]
  | .disarm => [.call .requestDisarm]
  | .accCal => [.call .requestAccCal]
  | .magCal => [.call .requestMagCal]
  | .persist => [.call .requestPersist]
  | .trim => [.call (.requestTrim d), .caller k]

/-- The direction stored after a request of a flag: the request's own for trim, the one stored before for the others (R182). -/
def directionAfter (f : ReqFlag) (d : TrimDir) (q : PendingRequests) : TrimDir :=
  match f with
  | .trim => d
  | .arm | .disarm | .accCal | .magCal | .persist => q.trimDir

/-- The command frames that a command phase emits for the flags set, in the order of R168. -/
def commandFrames (p : HostParams) (q : PendingRequests) : List Byte :=
  ([.arm, .disarm, .accCal, .magCal, .persist, .trim].filter q.get).flatMap fun f =>
    encodeFrame (commandIdOf p q f) []

end Sys2Proof.Machine
end

