-- ==== Sys2Proof/Certificates/Slice0/Obligations.lean ====
section
/-! DEFINITION. The statements for the provers. Where a statement rests on a choice of the spec (D1 to D33 of
`spec/92_eei_decisions.md`) or of the model (`notes/assumptions/<n>.md`), its docstring says so. -/

open Sys2Proof Sys2Proof.Machine

/-! ## Encoding and decoding -/

/-- Words written out from R70, R84 and R95's vectors decode to the operations they stand for; that a word of the table is read
with offset 0 as its most significant byte is R88, that a header is completed to a frame is log 2. -/
def Obligations.WordsDecodeToTheirOperations : Prop :=
  ∀ k : RowKey,
    decode k (.enc [0x24, 0x4D, 0x3C, 0x00, 0x69, 0x69]) = .ok (.encCmd 0x69) ∧
    decode k (.enc [0x24, 0x4D, 0x3C, 0x02, 0x10, 0xFF, 0xFF, 0x12]) = .ok (.encPayload 0x10 [0xFF, 0xFF]) ∧
    decode k (.enc [0x24, 0x4D, 0x3C, 0x01, 0x10, 0xAA, 0xBA]) = .error .badChecksum ∧
    decode k .poll = .ok .decStep ∧ decode k (.rx none) = .ok .decIdle ∧
    (k.state = .awaitPreamble3 → decode k (.rx (some 0x3C)) = .ok .decP3Match) ∧
    (k.state = .awaitLength → decode k (.rx (some 0x40)) = .ok (.decLenOk 0x40)) ∧
    (k.state = .awaitLength → decode k (.rx (some 0x41)) = .ok (.decLenOver 0x41)) ∧
    decodeTableWord 40 0x244D3C0007 = some (.encCmd 0x07)

/-- Decoding the word of a well-formed operation gives the operation back, in every state in which its row is selected. The
command frame and the payload frame of length 0 are one word (R72, R103), which is read as the command. -/
def Obligations.DecodeOfEncodeIsTheOperation : Prop :=
  ∀ (k : RowKey) (i : Instr), i.wellFormed = true → i.selected k = true →
    decode k (encode i) = .ok (match i with | .encPayload cmd [] => .encCmd cmd | i => i)

/-- The other direction: what a word decodes to is well formed, is selected, and has that word. -/
def Obligations.EncodeOfDecodeIsTheWord : Prop :=
  ∀ (k : RowKey) (op : Invocation) (i : Instr), k.cnt ≤ k.len → decode k op = .ok i →
    i.wellFormed = true ∧ i.selected k = true ∧ encode i = op

/-- R84: in each state the classes partition the inputs. For every input exactly one of the thirteen transitions has that input
as its word and its condition met; `DEC.cnt <= DEC.len` is R27. -/
def Obligations.RowClassesPartitionEveryState : Prop :=
  ∀ (k : RowKey) (input : Option Byte), k.cnt ≤ k.len →
    ∃ i, (isTransition i = true ∧ i.selected k = true ∧ encode i = .rx input) ∧
      ∀ j, isTransition j = true → j.selected k = true → encode j = .rx input → j = i

/-- R74, R107, R111: the encodings are exactly the well-formed frames, each with its own content, and have six bytes beside the
payload. -/
def Obligations.FramesAreExactlyTheEncodings : Prop :=
  (∀ (cmd : Byte) (payload : List Byte), payload.length ≤ 64 →
    IsFrame (encodeFrame cmd payload) cmd (BitVec.ofNat 8 payload.length) payload ∧
    (encodeFrame cmd payload).length = payload.length + 6) ∧
  (∀ (f : List Byte) (cmd n : Byte) (payload : List Byte), IsFrame f cmd n payload →
    f = encodeFrame cmd payload ∧ payload.length = n.toNat ∧ payload.length ≤ 64) ∧
  (∀ (cmd cmd' : Byte) (payload payload' : List Byte), payload.length ≤ 64 → payload'.length ≤ 64 →
    encodeFrame cmd payload = encodeFrame cmd' payload' → cmd = cmd' ∧ payload = payload')

/-! ## The encoder -/

/-- R101: `ENC_CMD cmd` appends `24 4D 3C 00 cmd cmd` to the outbound stream and changes nothing else. -/
def Obligations.CommandFrameIsAppended : Prop :=
  ∀ (cmd : Byte) (s : State),
    exec (.encCmd cmd) s = .next { s with tx := s.tx ++ [0x24, 0x4D, 0x3C, 0x00, cmd, cmd] }

/-- R100, R102: `ENC_PAYLOAD cmd, payload` appends the preamble, the length, the command id, the payload in order and the XOR of
length, command id and payload, and changes nothing else. -/
def Obligations.PayloadFrameIsAppended : Prop :=
  ∀ (cmd : Byte) (payload : List Byte) (s : State), payload.length ≤ 64 →
    exec (.encPayload cmd payload) s = .next { s with
      tx := s.tx ++ ([0x24, 0x4D, 0x3C, BitVec.ofNat 8 payload.length, cmd] ++ payload ++
        [BitVec.ofNat 8 payload.length ^^^ cmd ^^^ payload.foldl (· ^^^ ·) 0]) }

/-- A request with more than 64 payload bytes is refused: the spec's decision D10 (R105; log 27). -/
def Obligations.OversizePayloadIsRefused : Prop :=
  ∀ (cmd : Byte) (payload : List Byte) (s : State), 64 < payload.length →
    exec (.encPayload cmd payload) s = .refused .payloadTooLong

/-- R103: with an empty payload the two encoder operations do the same (allowed by the spec's decision D11). -/
def Obligations.EmptyPayloadIsACommand : Prop :=
  ∀ (cmd : Byte) (s : State), exec (.encPayload cmd []) s = exec (.encCmd cmd) s

/-! ## The decoder's transitions -/

/-- R122: with no byte available `DEC` is unchanged in every field, in any state, and the result is `NoFrame`. -/
def Obligations.IdleStepChangesNothing : Prop :=
  ∀ s : State, selectRow s.dec.key none = .decIdle ∧ exec .decIdle s = .next { s with result := .noFrame }

/-- R123, R125, R127: a matching preamble byte advances `DEC.state` and writes nothing else. (That the decoder expects the
encoder's three bytes is the spec's decision D4, log 16; the rules themselves give the numbers.) -/
def Obligations.PreambleMatchAdvances : Prop :=
  ∀ s : State,
    (s.dec.state = .awaitPreamble1 → selectRow s.dec.key (some 0x24) = .decP1Match ∧
      exec .decP1Match s = .next { s with dec := { s.dec with state := .awaitPreamble2 }, result := .noFrame }) ∧
    (s.dec.state = .awaitPreamble2 → selectRow s.dec.key (some 0x4D) = .decP2Match ∧
      exec .decP2Match s = .next { s with dec := { s.dec with state := .awaitPreamble3 }, result := .noFrame }) ∧
    (s.dec.state = .awaitPreamble3 → selectRow s.dec.key (some 0x3C) = .decP3Match ∧
      exec .decP3Match s = .next { s with dec := { s.dec with state := .awaitLength }, result := .noFrame })

/-- R124, R126, R128 with R136: any other byte, `24` in the second and third state included, sends `DEC` to the reset state with the
buffer untouched. The values that `Resync()` gives the four other fields are the spec's decision D6. -/
def Obligations.PreambleMismatchResyncs : Prop :=
  ∀ (s : State) (b : Byte),
    (s.dec.state = .awaitPreamble1 → b ≠ 0x24 → selectRow s.dec.key (some b) = .decP1Miss b ∧
      exec (.decP1Miss b) s = .next { s with
        dec := { s.dec with state := .awaitPreamble1, len := 0, cmd := 0, cnt := 0, acc := 0 }, result := .noFrame }) ∧
    (s.dec.state = .awaitPreamble2 → b ≠ 0x4D → selectRow s.dec.key (some b) = .decP2Miss b ∧
      exec (.decP2Miss b) s = .next { s with
        dec := { s.dec with state := .awaitPreamble1, len := 0, cmd := 0, cnt := 0, acc := 0 }, result := .noFrame }) ∧
    (s.dec.state = .awaitPreamble3 → b ≠ 0x3C → selectRow s.dec.key (some b) = .decP3Miss b ∧
      exec (.decP3Miss b) s = .next { s with
        dec := { s.dec with state := .awaitPreamble1, len := 0, cmd := 0, cnt := 0, acc := 0 }, result := .noFrame })

/-- R129: a length byte of at most 64 is stored, folded into the checksum, and the state advances; nothing else is written. -/
def Obligations.LengthByteIsStored : Prop :=
  ∀ (s : State) (b : Byte), s.dec.state = .awaitLength → b.toNat ≤ 64 →
    selectRow s.dec.key (some b) = .decLenOk b ∧
    ∃ len : Count, len.val = b.toNat ∧
      exec (.decLenOk b) s = .next { s with
        dec := { s.dec with state := .awaitCommand, len := len, acc := s.dec.acc ^^^ b }, result := .noFrame }

/-- R130, R145: a length byte above 64 is not stored; `DEC` goes to the reset state and the buffer is untouched (the values that
`Resync()` gives the four other fields are the spec's decision D6). -/
def Obligations.OversizeLengthResyncs : Prop :=
  ∀ (s : State) (b : Byte), s.dec.state = .awaitLength → 64 < b.toNat →
    selectRow s.dec.key (some b) = .decLenOver b ∧
    exec (.decLenOver b) s = .next { s with
      dec := { s.dec with state := .awaitPreamble1, len := 0, cmd := 0, cnt := 0, acc := 0 }, result := .noFrame }

/-- R131: any command id is stored, folded into the checksum, and the state advances; nothing else is written. -/
def Obligations.CommandByteIsStored : Prop :=
  ∀ (s : State) (b : Byte), s.dec.state = .awaitCommand →
    selectRow s.dec.key (some b) = .decCmd b ∧
    exec (.decCmd b) s = .next { s with
      dec := { s.dec with state := .awaitPayload, cmd := b, acc := s.dec.acc ^^^ b }, result := .noFrame }

/-- R132: while the count is below the length, any byte is stored at the current offset, folded into the checksum, and the count
goes up by one; every other cell, and everything else, stays. -/
def Obligations.PayloadByteIsStored : Prop :=
  ∀ (s : State) (b : Byte), s.dec.state = .awaitPayload → s.dec.cnt < s.dec.len →
    selectRow s.dec.key (some b) = .decPayload b ∧
    ∃ (buf : Memory) (cnt : Count), cnt.val = s.dec.cnt.val + 1 ∧
      exec (.decPayload b) s = .next { s with
        dec := { s.dec with buf := buf, cnt := cnt, acc := s.dec.acc ^^^ b }, result := .noFrame } ∧
      buf.read s.dec.cnt = some b ∧ ∀ i, i ≠ s.dec.cnt.val → buf.read i = s.dec.buf.read i

/-- R133: where the byte equals the accumulator, the frame is handed up with the fields as they stood and exactly the first
`DEC.len` bytes of the buffer (the spec's decision D8), and `DEC` goes to the reset state (the spec's decision D6). A cell
that nothing has written would give a free value (log 5); R27 says that there is none. -/
def Obligations.MatchingChecksumDelivers : Prop :=
  ∀ s : State, s.dec.state = .awaitPayload → s.dec.cnt = s.dec.len →
    selectRow s.dec.key (some s.dec.acc) = .decCsumOk s.dec.acc ∧
    ∃ payload : List Byte, payload.length = s.dec.len.val ∧
      (∀ i v, i < s.dec.len.val → s.dec.buf.read i = some v → payload[i]? = some v) ∧
      exec (.decCsumOk s.dec.acc) s = .next { s with
        dec := { s.dec with state := .awaitPreamble1, len := 0, cmd := 0, cnt := 0, acc := 0 }
        result := .frame { cmd := s.dec.cmd, len := s.dec.len, payload := payload }
        delivered := s.delivered ++ [{ cmd := s.dec.cmd, len := s.dec.len, payload := payload }] }

/-- R134: where the byte differs from the accumulator, nothing is handed up and `DEC` goes to the reset state (the spec's decision
D6); the buffer is untouched. -/
def Obligations.WrongChecksumIsDropped : Prop :=
  ∀ (s : State) (b : Byte), s.dec.state = .awaitPayload → s.dec.cnt = s.dec.len → b ≠ s.dec.acc →
    selectRow s.dec.key (some b) = .decCsumBad b ∧
    exec (.decCsumBad b) s = .next { s with
      dec := { s.dec with state := .awaitPreamble1, len := 0, cmd := 0, cnt := 0, acc := 0 }, result := .noFrame }

/-- The model's choice (log 4): a transition whose condition does not hold is refused; R139 says that no other edge exists. -/
def Obligations.UnselectedTransitionIsRefused : Prop :=
  ∀ (i : Instr) (s : State), isTransition i = true → i.selected s.dec.key = false → exec i s = .refused .notSelected

/-! ## The decoder's step -/

/-- R137: a step against the transport reads exactly one byte where one is available, and none where none is, and takes the
transition that it selects. -/
def Obligations.DecoderStepPollsOnce : Prop :=
  ∀ s : State,
    (s.rx = [] → exec .decStep s = exec (selectRow s.dec.key none) s) ∧
    (∀ (b : Byte) (rest : List Byte), s.rx = b :: rest →
      exec .decStep s = exec (selectRow s.dec.key (some b)) { s with rx := rest })

/-- R120, R217: where the counts are in order (R27) a decoder step always has a next state, with a byte or without; it takes one byte
from the transport at most, and nothing outside `DEC` and the results changes. -/
def Obligations.DecoderStepAlwaysCompletes : Prop :=
  ∀ s : State, s.dec.cnt ≤ s.dec.len →
    (∀ input : Option Byte, ∃ t, exec (selectRow s.dec.key input) s = .next t) ∧
    ∃ t, exec .decStep s = .next t ∧
      t = { s with dec := t.dec, rx := s.rx.tail, result := t.result, delivered := t.delivered }

/-- R139: a consuming step moves `DEC.state` along an edge of the table, and each edge of the table is some consuming step's. -/
def Obligations.DecoderMovesOnlyAlongItsEdges : Prop :=
  (∀ (s t : State) (b : Byte) (rest : List Byte), s.rx = b :: rest → exec .decStep s = .next t →
    t.dec.state ∈ fsmSuccessors s.dec.state) ∧
  (∀ a c : FsmState, c ∈ fsmSuccessors a → ∃ (s t : State) (b : Byte) (rest : List Byte),
    s.dec.state = a ∧ t.dec.state = c ∧ s.dec.Inv ∧ s.rx = b :: rest ∧ exec .decStep s = .next t)

/-- R135: a step hands up at most one frame, and only where the byte that it consumed is the checksum. -/
def Obligations.OnlyTheChecksumByteDelivers : Prop :=
  ∀ s t : State, exec .decStep s = .next t →
    (t.result = .noFrame ∧ t.delivered = s.delivered) ∨
    (∃ f, t.result = .frame f ∧ t.delivered = s.delivered ++ [f] ∧ s.dec.state = .awaitPayload ∧ s.dec.cnt = s.dec.len ∧
      s.rx.head? = some s.dec.acc)

/-! ## Streams -/

/-- R141: from the reset state, the frame of a command id and a payload of at most 64 bytes gives `NoFrame` at each byte but the
last, and there the command id, the length and the payload unchanged; the decoder ends in the reset state. (It rests on D4, log
16.) -/
def Obligations.FrameRoundTrip : Prop :=
  ∀ (cmd : Byte) (payload : List Byte) (s : State), payload.length ≤ 64 → s.dec.AtReset →
    ∃ (t : State) (len : Count), len.val = payload.length ∧
      feed ((encodeFrame cmd payload).map some) s =
        some (t, List.replicate (payload.length + 5) .noFrame ++ [.frame { cmd := cmd, len := len, payload := payload }]) ∧
      t.dec.AtReset

/-- R142: frames back to back are all delivered, in order, each at its last byte, and the decoder ends in the reset state. -/
def Obligations.BackToBackFramesAreAllDelivered : Prop :=
  ∀ (reqs : List (Byte × List Byte)) (s : State), (∀ r ∈ reqs, r.2.length ≤ 64) → s.dec.AtReset →
    ∃ t : State,
      feed ((reqs.flatMap fun r => encodeFrame r.1 r.2).map some) s =
        some (t, reqs.flatMap fun r =>
          List.replicate (r.2.length + 5) .noFrame ++ [.frame { cmd := r.1, len := countOf r.2.length, payload := r.2 }]) ∧
      t.delivered = s.delivered ++ reqs.map (fun r => { cmd := r.1, len := countOf r.2.length, payload := r.2 }) ∧
      t.dec.AtReset

/-- R143: after any bytes that leave the decoder waiting for the first preamble byte, a frame is delivered; bytes none of which is
`24` do so, and deliver nothing. -/
def Obligations.FrameAfterNoiseIsDelivered : Prop :=
  (∀ (noise : List Byte) (s s' : State) (rs : List DecResult) (cmd : Byte) (payload : List Byte),
    s.dec.AtReset → feed (noise.map some) s = some (s', rs) → s'.dec.state = .awaitPreamble1 → payload.length ≤ 64 →
    ∃ t : State, feed ((noise ++ encodeFrame cmd payload).map some) s =
        some (t, rs ++ List.replicate (payload.length + 5) .noFrame ++
          [.frame { cmd := cmd, len := countOf payload.length, payload := payload }]) ∧ t.dec.AtReset) ∧
  (∀ (noise : List Byte) (s : State), s.dec.AtReset → (∀ b ∈ noise, b ≠ 0x24) →
    ∃ s' : State, feed (noise.map some) s = some (s', List.replicate noise.length .noFrame) ∧ s'.dec.AtReset)

/-- R144: a frame with one byte changed, at an offset from 4 to the last, delivers nothing, is rejected at its last byte
(`DEC_CSUM_BAD`), and leaves the decoder in the reset state. -/
def Obligations.CorruptedByteRejectsTheFrame : Prop :=
  ∀ (cmd : Byte) (payload : List Byte) (k : Nat) (b : Byte) (s : State), payload.length ≤ 64 → s.dec.AtReset →
    4 ≤ k → k ≤ payload.length + 5 → (encodeFrame cmd payload)[k]? ≠ some b →
    ∃ (u t : State) (last : Byte),
      ((encodeFrame cmd payload).set k b)[payload.length + 5]? = some last ∧
      feed ((((encodeFrame cmd payload).set k b).take (payload.length + 5)).map some) s =
        some (u, List.replicate (payload.length + 5) .noFrame) ∧
      selectRow u.dec.key (some last) = .decCsumBad last ∧
      feed (((encodeFrame cmd payload).set k b).map some) s = some (t, List.replicate (payload.length + 6) .noFrame) ∧
      t.delivered = s.delivered ∧ t.dec.AtReset

/-- R146: whatever 69 bytes come, the decoder has been in the reset state after one of them; from `AWAIT_PREAMBLE_1`, 70. -/
def Obligations.RecoveryIsBounded : Prop :=
  ∀ (s : State) (bytes : List Byte), s.dec.Inv →
    bytes.length = (if s.dec.state = .awaitPreamble1 then 70 else 69) →
    ∃ (k : Nat) (t : State) (rs : List DecResult), 1 ≤ k ∧ k ≤ bytes.length ∧
      feed ((bytes.take k).map some) s = some (t, rs) ∧ t.dec.AtReset

/-- R147: whenever a step hands up a frame, the bytes consumed last are that frame's own, preamble and checksum included, whatever
idle steps came between. -/
def Obligations.DeliveredFramesWereReceived : Prop :=
  ∀ (inputs : List (Option Byte)) (s t : State) (rs : List DecResult) (f : Frame), s.dec.AtReset →
    feed inputs s = some (t, rs ++ [.frame f]) →
    f.len.val = f.payload.length ∧ ∃ before : List Byte, inputs.filterMap id = before ++ encodeFrame f.cmd f.payload

/-- R122, R243: idle steps anywhere, any number of them, change neither `DEC` nor what is delivered. -/
def Obligations.IdleStepsAreTransparent : Prop :=
  ∀ (inputs : List (Option Byte)) (s t : State) (rs : List DecResult), feed inputs s = some (t, rs) →
    ∃ (u : State) (us : List DecResult), feed (inputs.filter Option.isSome) s = some (u, us) ∧
      u.dec = t.dec ∧ u.delivered = t.delivered ∧
      us.filter (· ≠ .noFrame) = rs.filter (· ≠ .noFrame)

/-- R135: n bytes give at most n/6 frames, counted from the reset state. -/
def Obligations.SixBytesForEachFrame : Prop :=
  ∀ (inputs : List (Option Byte)) (s t : State) (rs : List DecResult), s.dec.AtReset → feed inputs s = some (t, rs) →
    6 * (rs.filter (· ≠ .noFrame)).length ≤ (inputs.filterMap id).length

/-! ## The two halves, and the agents around them -/

/-- R62, R108: an encode operation and a decoder step may be done in either order. -/
def Obligations.EncoderAndDecoderCommute : Prop :=
  ∀ (cmd : Byte) (payload : List Byte) (i : Instr) (s : State), payload.length ≤ 64 → (isTransition i = true ∨ i = .decStep) →
    andThen (exec (.encPayload cmd payload) s) (exec i) = andThen (exec i s) (exec (.encPayload cmd payload)) ∧
    andThen (exec (.encCmd cmd) s) (exec i) = andThen (exec i s) (exec (.encCmd cmd))

/-- R28, R108, R187: a move of the scheduler touches neither `DEC` nor the inbound stream nor what was delivered, a move of the
Receive Loop neither the outbound stream nor the control inputs nor the requests, and a Control Surface call other than start
none of the streams and no part of the block. -/
def Obligations.AgentsKeepToTheirOwnState : Prop :=
  ∀ (p : HostParams) (s t : State),
    (∀ n, runEvent p (.txStep n) s = .next t →
      t = { s with tx := t.tx, req := t.req, txPos := t.txPos }) ∧
    (runEvent p .rxStep s = .next t →
      t = { s with dec := t.dec, rx := t.rx, result := t.result, delivered := t.delivered, snapshot := t.snapshot,
                   rxPos := t.rxPos }) ∧
    (∀ c : Call, c ≠ .start → runEvent p (.call c) s = .next t →
      t = { s with ctl := t.ctl, req := t.req, calls := t.calls, reads := t.reads }) ∧
    (∀ k, runEvent p (.caller k) s = .next t → t = { s with ctl := t.ctl, req := t.req, calls := t.calls })

/-- R34: a byte once written cannot be recalled, and a frame once handed up stays so: the records only grow. -/
def Obligations.StepsNeverRecallOutput : Prop :=
  ∀ s t : State, step s = .next t → s.tx <+: t.tx ∧ s.delivered <+: t.delivered ∧ s.reads <+: t.reads

/-! ## Invariants -/

/-- R27: in every state that a run from reset reaches, whatever is scheduled, the four items hold. -/
def Obligations.DecoderInvariantInEveryReachableState : Prop :=
  ∀ (events : List Event) (n : Nat) (t : State),
    Host.Core.run Sys2Proof.core n ({ State.reset with schedule := events } : State) = .next t →
    t.dec.cnt ≤ t.dec.len ∧ t.dec.len.val ≤ 64 ∧
    (t.dec.state = .awaitPreamble1 ∨ t.dec.state = .awaitPreamble2 ∨ t.dec.state = .awaitPreamble3 ∨
      t.dec.state = .awaitLength → t.dec.len = 0 ∧ t.dec.cmd = 0 ∧ t.dec.cnt = 0 ∧ t.dec.acc = 0) ∧
    (t.dec.state = .awaitCommand → t.dec.cnt = 0 ∧ t.dec.cmd = 0 ∧ t.dec.acc = BitVec.ofNat 8 t.dec.len) ∧
    (t.dec.state = .awaitPayload →
      t.dec.acc = BitVec.ofNat 8 t.dec.len ^^^ t.dec.cmd ^^^ xorAll (t.dec.bufPrefix t.dec.cnt))

/-- R24, R27, R50: every step of the machine, whoever moves, keeps the decoder's invariant, from every state that has it. -/
def Obligations.EveryStepKeepsTheDecoderInvariant : Prop :=
  ∀ s t : State, s.dec.Inv → step s = .next t → t.dec.Inv

/-- R60: every step of the machine keeps the outbound stream a concatenation of whole frames. -/
def Obligations.EveryStepKeepsWholeFrames : Prop :=
  ∀ s t : State, WholeFrames s.tx → step s = .next t → WholeFrames t.tx

/-- R160, R181: every step of the machine keeps the flow offsets within `[-20, 20]`. -/
def Obligations.EveryStepKeepsFlowClamped : Prop :=
  ∀ s t : State, FlowClamped s → step s = .next t → FlowClamped t

/-- The three invariants hold at reset. -/
def Obligations.InvariantsHoldAtReset : Prop :=
  State.reset.dec.Inv ∧ WholeFrames State.reset.tx ∧ FlowClamped State.reset

/-- Where the counts are in order, an invocation of the block is refused only as a second user (log 10) or as a request that is no
frame (log 3): no word runs into an unselected row. -/
def Obligations.OnlyTwoReasonsRefuseAnInvocation : Prop :=
  ∀ (p : HostParams) (op : Invocation) (s : State) (r : Refusal), s.dec.cnt ≤ s.dec.len →
    runEvent p (.invoke op) s = .refused r →
    (r = .secondUser ∧ s.owned op = true) ∨
    (r = .notAFrame ∧ ∃ f, op = .enc f ∧ ∀ cmd n payload, ¬ IsFrame f cmd n payload)

/-! ## Reset and the step -/

/-- R30, R31, R164: the state after reset. The zeros of `len`, `cmd`, `cnt` and `acc` are the spec's decision D5, the host's values
its decision D30, and `trimDir` the model's choice (log 7), of which nothing is said here. -/
def Obligations.StateAfterReset : Prop :=
  State.reset.dec.AtReset ∧ (∀ i, State.reset.dec.buf.read i = none) ∧
  State.reset.ctl = { roll := 0, pitch := 0, yaw := 0, throttle := 0, althold := 0, flowX := 0, flowY := 0 } ∧
  (∀ f, State.reset.req.get f = false) ∧ State.reset.snapshot = none ∧ State.reset.tx = [] ∧ State.reset.delivered = []

/-- R230: a reset of the block, at any time, puts `DEC` in the reset state (the zeros are the spec's decision D5) and forgets the
buffer; nothing else changes. -/
def Obligations.BlockResetForgetsTheFrame : Prop :=
  ∀ (p : HostParams) (s : State), ∃ t : State, runEvent p .reset s = .next t ∧
    t.dec.AtReset ∧ (∀ i, t.dec.buf.read i = none) ∧ t = { s with dec := t.dec }

/-- A step runs the operation that the next invocation in the schedule decodes to; nothing else is added to its effect. -/
def Obligations.StepRunsTheDecodedOperation : Prop :=
  ∀ (s : State) (op : Invocation) (rest : List Event) (i : Instr), s.schedule = .invoke op :: rest → s.owned op = false →
    decode s.dec.key op = .ok i → step s = exec i { s with schedule := rest }

/-- The model's choices (log 3, log 10): a request whose word is no frame is refused, and so is a second user of either half. -/
def Obligations.StrayInvocationsAreRefused : Prop :=
  ∀ (s : State) (op : Invocation) (rest : List Event), s.schedule = .invoke op :: rest →
    (s.owned op = true → step s = .refused .secondUser) ∧
    (∀ e, s.owned op = false → decode s.dec.key op = .error e → step s = .refused .notAFrame)

/-- A word of the table placed where the next step fetches runs as the operation that it decodes to (log 2). -/
def Obligations.PlacedWordRunsNext : Prop :=
  ∀ (s : State) (nbits w : Nat) (i : Instr), decodeTableWord nbits w = some i →
    ∃ fsm : FsmState, step (s.withFetchWord nbits w) =
      exec i { s with dec := { s.dec with state := fsm }, txPos := .stopped, rxPos := .stopped }

/-- A run of the machine is its scheduled events one after the other; what is scheduled after them waits. -/
def Obligations.RunIsItsScheduledEvents : Prop :=
  ∀ (events rest : List Event) (s t : State),
    runEvents Config.hostParams events { s with schedule := rest } = .next t →
    Host.Core.run Sys2Proof.core events.length ({ s with schedule := events ++ rest } : State) = .next t

/-- R56, R58, R61: bytes that arrive wait in order of arrival, whatever else the machine is doing, and polls consume them in that
order, one each. That they wait without bound is log 18. -/
def Obligations.BytesAreConsumedInArrivalOrder : Prop :=
  ∀ (p : HostParams) (bytes rest : List Byte) (s t : State) (rs : List DecResult),
    (runEvents p (bytes.map .arrive) s = .next { s with rx := s.rx ++ bytes }) ∧
    (s.rxPos = .stopped → feed (bytes.map some) { s with rx := rest } = some (t, rs) →
      runEvents p (List.replicate bytes.length (.invoke .poll)) { s with rx := bytes ++ rest } = .next t)

/-! ## The host: the Control Surface -/

/-- R179, R180, R182: each setter writes its one field, the last write wins, and nothing else changes. -/
def Obligations.SettersWriteTheirField : Prop :=
  ∀ (p : HostParams) (s : State) (v : Int) (n : Nat),
    runEvent p (.call (.setRoll v)) s = .next { s with ctl := { s.ctl with roll := v } } ∧
    runEvent p (.call (.setPitch v)) s = .next { s with ctl := { s.ctl with pitch := v } } ∧
    runEvent p (.call (.setYaw v)) s = .next { s with ctl := { s.ctl with yaw := v } } ∧
    runEvent p (.call (.setThrottle n)) s = .next { s with ctl := { s.ctl with throttle := n } } ∧
    runEvent p (.call (.setAlthold true)) s = .next { s with ctl := { s.ctl with althold := p.altholdOn.toNat } } ∧
    runEvent p (.call (.setAlthold false)) s = .next { s with ctl := { s.ctl with althold := 0 } } ∧
    runEvent p (.call .requestArm) s = .next { s with req := { s.req with arm := true } } ∧
    runEvent p (.call .requestDisarm) s = .next { s with req := { s.req with disarm := true } } ∧
    runEvent p (.call .requestAccCal) s = .next { s with req := { s.req with accCal := true } } ∧
    runEvent p (.call .requestMagCal) s = .next { s with req := { s.req with magCal := true } } ∧
    runEvent p (.call .requestPersist) s = .next { s with req := { s.req with persist := true } }

/-- R179, R181, R182: the operations that write several fields, with the caller's further writes (log 8): the neutral reset zeros
roll, pitch and yaw; the flow offsets are clamped to `[-20, 20]` independently, when they are written; a trim request sets
its flag and overwrites the direction. -/
def Obligations.SeveralFieldCallsComplete : Prop :=
  ∀ (p : HostParams) (s : State) (x y : Int) (d : TrimDir),
    runEvents p [.call .resetNeutral, .caller s.calls.length, .caller s.calls.length] s =
      .next { s with ctl := { s.ctl with roll := 0, pitch := 0, yaw := 0 } } ∧
    runEvents p [.call (.setFlow x y), .caller s.calls.length] s =
      .next { s with ctl := { s.ctl with
        flowX := if x < -20 then -20 else if 20 < x then 20 else x
        flowY := if y < -20 then -20 else if 20 < y then 20 else y } } ∧
    runEvents p [.call (.requestTrim d), .caller s.calls.length] s =
      .next { s with req := { s.req with trim := true, trimDir := d } }

/-- R183: the getter returns a copy of the current snapshot and changes nothing else. (Before the first report it returns the free
value of log 6, of which nothing is said here.) -/
def Obligations.GetterReturnsTheSnapshot : Prop :=
  ∀ (p : HostParams) (s : State) (record : List Byte), s.snapshot = some record →
    runEvent p (.call .getTelemetry) s = .next { s with reads := s.reads ++ [record] }

/-- R184, R166: start creates `DEC` in its reset state and begins both loops, the scheduler with its command phase (the spec's
decision D28); while a loop runs it is refused (the model's choice, log 11). -/
def Obligations.StartBeginsBothLoops : Prop :=
  ∀ (p : HostParams) (s : State),
    (s.txPos = .stopped → s.rxPos = .stopped → ∃ t : State, runEvent p (.call .start) s = .next t ∧
      t.dec.AtReset ∧ (∀ i, t.dec.buf.read i = none) ∧
      t = { s with dec := t.dec, txPos := .tick .command, rxPos := .poll }) ∧
    (s.txPos ≠ .stopped ∨ s.rxPos ≠ .stopped → runEvent p (.call .start) s = .refused .alreadyRunning)

/-! ## The host: the Transmit Scheduler -/

/-- R166: the phases come in a fixed cycle. A move stays in its phase, or ends it at the tick of the phase that follows, or ends the
loop. -/
def Obligations.SchedulerPhasesComeInOrder : Prop :=
  ∀ (p : HostParams) (n : Nat) (s t : State) (ph : Phase), phaseOf s.txPos = some ph → runEvent p (.txStep n) s = .next t →
    phaseOf t.txPos = some ph ∨ t.txPos = .tick (nextPhase ph) ∨ (t.txPos = .stopped ∧ s.shutdown = true)

/-- R168, R169, R170: an undisturbed command phase emits one command frame for each flag set, in the fixed priority order, trim with
the direction stored, clears the flags, and goes on to the control phase; nothing else changes. Where each flag is cleared after
its frame (choice 0, log 9), it takes seven moves and two more for each flag; whatever the choices, it takes seven moves and one
or two more for each flag. -/
def Obligations.CommandPhaseDrainsTheRequests : Prop :=
  ∀ (p : HostParams) (s : State), s.txPos = .tick .command → s.shutdown = false →
    runEvents p (List.replicate (7 + 2 * ([ReqFlag.arm, .disarm, .accCal, .magCal, .persist, .trim].filter s.req.get).length)
        (.txStep 0)) s =
      .next { s with
        tx := s.tx ++ commandFrames p s.req
        req := { s.req with arm := false, disarm := false, accCal := false, magCal := false, persist := false, trim := false }
        txPos := .tick .control } ∧
    ∀ choices : Nat → Nat, ∃ n : Nat,
      7 + ([ReqFlag.arm, .disarm, .accCal, .magCal, .persist, .trim].filter s.req.get).length ≤ n ∧
      n ≤ 7 + 2 * ([ReqFlag.arm, .disarm, .accCal, .magCal, .persist, .trim].filter s.req.get).length ∧
      runEvents p ((List.range n).map fun i => .txStep (choices i)) s =
        .next { s with
          tx := s.tx ++ commandFrames p s.req
          req := { s.req with arm := false, disarm := false, accCal := false, magCal := false, persist := false, trim := false }
          txPos := .tick .control }

/-- R170, U13 (log 9): a request of a flag made between the scheduler's test of it and its clear is absorbed, or kept for the next
cycle, as the schedule chooses; one frame goes out either way, for trim with the direction stored when it goes out (R169). The
request is whole, all its writes done (log 8). -/
def Obligations.LateRequestIsAbsorbedOrKept : Prop :=
  ∀ (p : HostParams) (f : ReqFlag) (d : TrimDir) (s : State), s.txPos = .test f → s.req.get f = true →
    (runEvents p ([.txStep 0] ++ requestEvents f d s.calls.length ++ [.txStep 0, .txStep 0]) s = .next { s with
      tx := s.tx ++ encodeFrame (commandIdOf p { s.req with trimDir := directionAfter f d s.req } f) []
      req := ({ s.req with trimDir := directionAfter f d s.req } : PendingRequests).set f false
      txPos := afterFlag f }) ∧
    (runEvents p ([.txStep 0, .txStep 0] ++ requestEvents f d s.calls.length ++ [.txStep 0]) s = .next { s with
      tx := s.tx ++ encodeFrame (commandIdOf p s.req f) []
      req := ({ s.req with trimDir := directionAfter f d s.req } : PendingRequests).set f false
      txPos := afterFlag f }) ∧
    (runEvents p ([.txStep 1] ++ requestEvents f d s.calls.length ++ [.txStep 0]) s = .next { s with
      tx := s.tx ++ encodeFrame (commandIdOf p { s.req with trimDir := directionAfter f d s.req } f) []
      req := { s.req with trimDir := directionAfter f d s.req }
      txPos := afterFlag f })

/-- R171, R172: an undisturbed control phase, in whatever order it reads the fields, emits one payload frame with the five channels,
where each fits a byte, and is refused where one does not (the spec's decision D23). The pairing of flow and axis and the
biases 125 and 0 are the spec's decisions D21 and D22 (log 24). -/
def Obligations.ControlPhaseEmitsThePayload : Prop :=
  ∀ (p : HostParams) (s : State) (choices : List Nat), s.txPos = .tick .control → s.shutdown = false → choices.length = 10 →
    (∀ ch0 ch1 ch2 ch3 ch4 : Byte,
      (ch0.toNat : Int) = 125 + s.ctl.roll + s.ctl.flowX → (ch1.toNat : Int) = 125 + s.ctl.pitch + s.ctl.flowY →
      (ch2.toNat : Int) = 125 + s.ctl.yaw → ch3.toNat = s.ctl.throttle → ch4.toNat = s.ctl.althold →
      runEvents p (choices.map .txStep) s = .next { s with
        tx := s.tx ++ encodeFrame p.cmdSetControl [ch0, ch1, ch2, ch3, ch4], txPos := .tick .request }) ∧
    ((∃ v ∈ [125 + s.ctl.roll + s.ctl.flowX, 125 + s.ctl.pitch + s.ctl.flowY, 125 + s.ctl.yaw, (s.ctl.throttle : Int),
        (s.ctl.althold : Int)], v < 0 ∨ 255 < v) →
      runEvents p (choices.map .txStep) s = .refused .channelOutOfRange)

/-- R173: the telemetry-request phase emits exactly one command frame and goes on to the command phase. -/
def Obligations.RequestPhaseEmitsOneFrame : Prop :=
  ∀ (p : HostParams) (s : State) (m n : Nat), s.txPos = .tick .request → s.shutdown = false →
    runEvents p [.txStep m, .txStep n] s =
      .next { s with tx := s.tx ++ [0x24, 0x4D, 0x3C, 0x00, p.cmdReqSensor, p.cmdReqSensor], txPos := .tick .command }

/-! ## The host: the Receive Loop, and shutdown -/

/-- R175, R177: an iteration of the Receive Loop makes one decoder step; a sensor report that it hands up replaces the snapshot whole,
and any other frame is dropped. That the snapshot becomes the delivered payload whatever its length is the spec's decision D26
(log 14); U11 says that a mismatching length has no rule. -/
def Obligations.ReceiveLoopKeepsSensorReports : Prop :=
  ∀ (p : HostParams) (s t : State), s.rxPos = .poll → s.shutdown = false → exec .decStep s = .next t →
    (t.result = .noFrame → runEvents p [.rxStep, .rxStep] s = .next t) ∧
    (∀ f, t.result = .frame f → f.cmd = p.cmdSensorReport →
      runEvents p [.rxStep, .rxStep] s = .next { t with snapshot := some f.payload }) ∧
    (∀ f, t.result = .frame f → f.cmd ≠ p.cmdSensorReport → runEvents p [.rxStep, .rxStep] s = .next t)

/-- R188: the shutdown signal sets the flag and changes nothing else. With the flag set, each loop ends at its next check (log 13);
nothing is emitted, and a decode in progress is abandoned as it stands. -/
def Obligations.ShutdownEndsTheLoops : Prop :=
  ∀ (p : HostParams) (s : State) (n : Nat),
    runEvent p .shutdown s = .next { s with shutdown := true } ∧
    (s.shutdown = true →
      (∀ ph, s.txPos = .tick ph → runEvent p (.txStep n) s = .next { s with txPos := .stopped }) ∧
      (s.rxPos = .poll → runEvent p .rxStep s = .next { s with rxPos := .stopped }))
end

