-- ==== Sys2Proof/Laws/Memory.lean ====
section
/-! SUPPORT. The payload buffer: a read after a write, and that every operation keeps the canonical form. -/

namespace Sys2Proof.Machine

theorem Memory.read_write_same (m : Memory) (i : Nat) (v : Byte) : (m.write i v).read i = some v := by
  induction m with
  | nil => simp [write, read]
  | cons c m ih =>
    simp only [write]
    split
    · simp [read]
    split
    · simp [read]
    · next h => simp [read, Ne.symm h, ih]

theorem Memory.read_write_other (m : Memory) {i j : Nat} (v : Byte) (h : j ≠ i) :
    (m.write i v).read j = m.read j := by
  induction m with
  | nil => simp [write, read, Ne.symm h]
  | cons c m ih =>
    simp only [write]
    split
    · simp [read, Ne.symm h]
    split
    · next h' => simp [read, Ne.symm h, ← h']
    · simp only [read, ih]

theorem Memory.wfFrom_write {lo i : Nat} (m : Memory) (v : Byte) (hm : wfFrom lo m = true) (hlo : lo ≤ i)
    (hi : i < maxPayload) : wfFrom lo (m.write i v) = true := by
  induction m generalizing lo with
  | nil => simp [write, wfFrom, hlo, hi]
  | cons c m ih =>
    simp only [wfFrom, Bool.and_eq_true, decide_eq_true_eq] at hm
    obtain ⟨⟨h1, h2⟩, h3⟩ := hm
    simp only [write]
    split
    · next h => simp [wfFrom, hlo, hi, h2, h3]; omega
    split
    · next h => subst h; simp [wfFrom, h1, hi, h3]
    · simp [wfFrom, h1, h2, ih h3 (by omega)]

/-- A write inside the buffer keeps its canonical form. -/
theorem Memory.wf_write (m : Memory) {i : Nat} (v : Byte) (hm : m.wf = true) (hi : i < maxPayload) :
    (m.write i v).wf = true :=
  wfFrom_write m v hm (Nat.zero_le i) hi

theorem Memory.wf_nil : Memory.wf [] = true := rfl

/-- The memory at reset has the canonical form. -/
theorem State.reset_buf_wf : State.reset.dec.buf.wf = true := rfl

theorem Dec.resync_buf_wf (d : Dec) (h : d.buf.wf = true) : d.resync.buf.wf = true := h

theorem Dec.powerOn_buf_wf (d : Dec) : d.powerOn.buf.wf = true := rfl

/-! ### The bytes of the buffer -/

theorem Dec.bufByte_of_read {d : Dec} {i : Nat} {v : Byte} (h : d.buf.read i = some v) : d.bufByte i = v := by
  simp [bufByte, h]

@[simp] theorem Dec.bufPrefix_length (d : Dec) (n : Nat) : (d.bufPrefix n).length = n := by simp [bufPrefix]

theorem Dec.bufPrefix_succ (d : Dec) (n : Nat) : d.bufPrefix (n + 1) = d.bufPrefix n ++ [d.bufByte n] := by
  simp [bufPrefix, List.range_succ]

/-- Prefixes agree where the buffer and its free values agree below the length. -/
theorem Dec.bufPrefix_congr {d e : Dec} {n : Nat} (h : ∀ i, i < n → d.bufByte i = e.bufByte i) :
    d.bufPrefix n = e.bufPrefix n := by
  simpa [bufPrefix] using h

theorem Dec.bufByte_write_same (d : Dec) (i : Nat) (v : Byte) :
    ({ d with buf := d.buf.write i v } : Dec).bufByte i = v := by
  simp [bufByte, Memory.read_write_same]

theorem Dec.bufByte_write_other (d : Dec) {i j : Nat} (v : Byte) (h : j ≠ i) :
    ({ d with buf := d.buf.write i v } : Dec).bufByte j = d.bufByte j := by
  simp [bufByte, Memory.read_write_other _ _ h]

end Sys2Proof.Machine
end

