-- ==== Sys2Proof/Laws/State.lean ====
section
/-! SUPPORT. What each small update of the state leaves in each field: one lemma per field per update. -/

namespace Sys2Proof.Machine

/-! ### `State.answer` -/

@[simp] theorem State.answer_dec (r : DecResult) (s : State) : (s.answer r).dec = s.dec := by cases r <;> rfl
@[simp] theorem State.answer_rx (r : DecResult) (s : State) : (s.answer r).rx = s.rx := by cases r <;> rfl
@[simp] theorem State.answer_tx (r : DecResult) (s : State) : (s.answer r).tx = s.tx := by cases r <;> rfl
@[simp] theorem State.answer_result (r : DecResult) (s : State) : (s.answer r).result = r := by cases r <;> rfl
@[simp] theorem State.answer_ctl (r : DecResult) (s : State) : (s.answer r).ctl = s.ctl := by cases r <;> rfl
@[simp] theorem State.answer_req (r : DecResult) (s : State) : (s.answer r).req = s.req := by cases r <;> rfl
@[simp] theorem State.answer_snapshot (r : DecResult) (s : State) : (s.answer r).snapshot = s.snapshot := by cases r <;> rfl
@[simp] theorem State.answer_shutdown (r : DecResult) (s : State) : (s.answer r).shutdown = s.shutdown := by cases r <;> rfl
@[simp] theorem State.answer_txPos (r : DecResult) (s : State) : (s.answer r).txPos = s.txPos := by cases r <;> rfl
@[simp] theorem State.answer_rxPos (r : DecResult) (s : State) : (s.answer r).rxPos = s.rxPos := by cases r <;> rfl
@[simp] theorem State.answer_calls (r : DecResult) (s : State) : (s.answer r).calls = s.calls := by cases r <;> rfl
@[simp] theorem State.answer_reads (r : DecResult) (s : State) : (s.answer r).reads = s.reads := by cases r <;> rfl
@[simp] theorem State.answer_schedule (r : DecResult) (s : State) : (s.answer r).schedule = s.schedule := by cases r <;> rfl
@[simp] theorem State.answer_delivered_noFrame (s : State) : (s.answer .noFrame).delivered = s.delivered := rfl
@[simp] theorem State.answer_delivered_frame (f : Frame) (s : State) :
    (s.answer (.frame f)).delivered = s.delivered ++ [f] := rfl

/-! ### `State.txWrite` -/

@[simp] theorem State.txWrite_dec (b : Byte) (s : State) : (s.txWrite b).dec = s.dec := rfl
@[simp] theorem State.txWrite_rx (b : Byte) (s : State) : (s.txWrite b).rx = s.rx := rfl
@[simp] theorem State.txWrite_tx (b : Byte) (s : State) : (s.txWrite b).tx = s.tx ++ [b] := rfl
@[simp] theorem State.txWrite_result (b : Byte) (s : State) : (s.txWrite b).result = s.result := rfl
@[simp] theorem State.txWrite_delivered (b : Byte) (s : State) : (s.txWrite b).delivered = s.delivered := rfl
@[simp] theorem State.txWrite_ctl (b : Byte) (s : State) : (s.txWrite b).ctl = s.ctl := rfl
@[simp] theorem State.txWrite_req (b : Byte) (s : State) : (s.txWrite b).req = s.req := rfl
@[simp] theorem State.txWrite_snapshot (b : Byte) (s : State) : (s.txWrite b).snapshot = s.snapshot := rfl
@[simp] theorem State.txWrite_shutdown (b : Byte) (s : State) : (s.txWrite b).shutdown = s.shutdown := rfl
@[simp] theorem State.txWrite_txPos (b : Byte) (s : State) : (s.txWrite b).txPos = s.txPos := rfl
@[simp] theorem State.txWrite_rxPos (b : Byte) (s : State) : (s.txWrite b).rxPos = s.rxPos := rfl
@[simp] theorem State.txWrite_calls (b : Byte) (s : State) : (s.txWrite b).calls = s.calls := rfl
@[simp] theorem State.txWrite_reads (b : Byte) (s : State) : (s.txWrite b).reads = s.reads := rfl
@[simp] theorem State.txWrite_schedule (b : Byte) (s : State) : (s.txWrite b).schedule = s.schedule := rfl

/-! ### `State.rxRead` -/

@[simp] theorem State.rxRead_dec (s : State) : s.rxRead.dec = s.dec := rfl
@[simp] theorem State.rxRead_rx (s : State) : s.rxRead.rx = s.rx.tail := rfl
@[simp] theorem State.rxRead_tx (s : State) : s.rxRead.tx = s.tx := rfl
@[simp] theorem State.rxRead_result (s : State) : s.rxRead.result = s.result := rfl
@[simp] theorem State.rxRead_delivered (s : State) : s.rxRead.delivered = s.delivered := rfl
@[simp] theorem State.rxRead_ctl (s : State) : s.rxRead.ctl = s.ctl := rfl
@[simp] theorem State.rxRead_req (s : State) : s.rxRead.req = s.req := rfl
@[simp] theorem State.rxRead_snapshot (s : State) : s.rxRead.snapshot = s.snapshot := rfl
@[simp] theorem State.rxRead_shutdown (s : State) : s.rxRead.shutdown = s.shutdown := rfl
@[simp] theorem State.rxRead_txPos (s : State) : s.rxRead.txPos = s.txPos := rfl
@[simp] theorem State.rxRead_rxPos (s : State) : s.rxRead.rxPos = s.rxPos := rfl
@[simp] theorem State.rxRead_calls (s : State) : s.rxRead.calls = s.calls := rfl
@[simp] theorem State.rxRead_reads (s : State) : s.rxRead.reads = s.reads := rfl
@[simp] theorem State.rxRead_schedule (s : State) : s.rxRead.schedule = s.schedule := rfl

/-! ### `State.arrive` -/

@[simp] theorem State.arrive_dec (b : Byte) (s : State) : (s.arrive b).dec = s.dec := rfl
@[simp] theorem State.arrive_rx (b : Byte) (s : State) : (s.arrive b).rx = s.rx ++ [b] := rfl
@[simp] theorem State.arrive_tx (b : Byte) (s : State) : (s.arrive b).tx = s.tx := rfl
@[simp] theorem State.arrive_result (b : Byte) (s : State) : (s.arrive b).result = s.result := rfl
@[simp] theorem State.arrive_delivered (b : Byte) (s : State) : (s.arrive b).delivered = s.delivered := rfl
@[simp] theorem State.arrive_ctl (b : Byte) (s : State) : (s.arrive b).ctl = s.ctl := rfl
@[simp] theorem State.arrive_req (b : Byte) (s : State) : (s.arrive b).req = s.req := rfl
@[simp] theorem State.arrive_snapshot (b : Byte) (s : State) : (s.arrive b).snapshot = s.snapshot := rfl
@[simp] theorem State.arrive_shutdown (b : Byte) (s : State) : (s.arrive b).shutdown = s.shutdown := rfl
@[simp] theorem State.arrive_txPos (b : Byte) (s : State) : (s.arrive b).txPos = s.txPos := rfl
@[simp] theorem State.arrive_rxPos (b : Byte) (s : State) : (s.arrive b).rxPos = s.rxPos := rfl
@[simp] theorem State.arrive_calls (b : Byte) (s : State) : (s.arrive b).calls = s.calls := rfl
@[simp] theorem State.arrive_reads (b : Byte) (s : State) : (s.arrive b).reads = s.reads := rfl
@[simp] theorem State.arrive_schedule (b : Byte) (s : State) : (s.arrive b).schedule = s.schedule := rfl

/-! ### `State.txAt` -/

@[simp] theorem State.txAt_dec (pos : TxPos) (s : State) : (s.txAt pos).dec = s.dec := rfl
@[simp] theorem State.txAt_rx (pos : TxPos) (s : State) : (s.txAt pos).rx = s.rx := rfl
@[simp] theorem State.txAt_tx (pos : TxPos) (s : State) : (s.txAt pos).tx = s.tx := rfl
@[simp] theorem State.txAt_result (pos : TxPos) (s : State) : (s.txAt pos).result = s.result := rfl
@[simp] theorem State.txAt_delivered (pos : TxPos) (s : State) : (s.txAt pos).delivered = s.delivered := rfl
@[simp] theorem State.txAt_ctl (pos : TxPos) (s : State) : (s.txAt pos).ctl = s.ctl := rfl
@[simp] theorem State.txAt_req (pos : TxPos) (s : State) : (s.txAt pos).req = s.req := rfl
@[simp] theorem State.txAt_snapshot (pos : TxPos) (s : State) : (s.txAt pos).snapshot = s.snapshot := rfl
@[simp] theorem State.txAt_shutdown (pos : TxPos) (s : State) : (s.txAt pos).shutdown = s.shutdown := rfl
@[simp] theorem State.txAt_txPos (pos : TxPos) (s : State) : (s.txAt pos).txPos = pos := rfl
@[simp] theorem State.txAt_rxPos (pos : TxPos) (s : State) : (s.txAt pos).rxPos = s.rxPos := rfl
@[simp] theorem State.txAt_calls (pos : TxPos) (s : State) : (s.txAt pos).calls = s.calls := rfl
@[simp] theorem State.txAt_reads (pos : TxPos) (s : State) : (s.txAt pos).reads = s.reads := rfl
@[simp] theorem State.txAt_schedule (pos : TxPos) (s : State) : (s.txAt pos).schedule = s.schedule := rfl

/-! ### `Dec.resync` -/

@[simp] theorem Dec.resync_state (d : Dec) : d.resync.state = .awaitPreamble1 := rfl
@[simp] theorem Dec.resync_len (d : Dec) : d.resync.len = 0 := rfl
@[simp] theorem Dec.resync_cmd (d : Dec) : d.resync.cmd = 0 := rfl
@[simp] theorem Dec.resync_cnt (d : Dec) : d.resync.cnt = 0 := rfl
@[simp] theorem Dec.resync_acc (d : Dec) : d.resync.acc = 0 := rfl
@[simp] theorem Dec.resync_buf (d : Dec) : d.resync.buf = d.buf := rfl
@[simp] theorem Dec.resync_epoch (d : Dec) : d.resync.epoch = d.epoch := rfl

/-! ### `Dec.powerOn` -/

@[simp] theorem Dec.powerOn_state (d : Dec) : d.powerOn.state = .awaitPreamble1 := rfl
@[simp] theorem Dec.powerOn_len (d : Dec) : d.powerOn.len = 0 := rfl
@[simp] theorem Dec.powerOn_cmd (d : Dec) : d.powerOn.cmd = 0 := rfl
@[simp] theorem Dec.powerOn_cnt (d : Dec) : d.powerOn.cnt = 0 := rfl
@[simp] theorem Dec.powerOn_acc (d : Dec) : d.powerOn.acc = 0 := rfl
@[simp] theorem Dec.powerOn_buf (d : Dec) : d.powerOn.buf = [] := rfl
@[simp] theorem Dec.powerOn_epoch (d : Dec) : d.powerOn.epoch = d.epoch + 1 := rfl

/-! ### `Dec.fold` -/

@[simp] theorem Dec.fold_state (b : Byte) (d : Dec) : (d.fold b).state = d.state := rfl
@[simp] theorem Dec.fold_len (b : Byte) (d : Dec) : (d.fold b).len = d.len := rfl
@[simp] theorem Dec.fold_cmd (b : Byte) (d : Dec) : (d.fold b).cmd = d.cmd := rfl
@[simp] theorem Dec.fold_cnt (b : Byte) (d : Dec) : (d.fold b).cnt = d.cnt := rfl
@[simp] theorem Dec.fold_acc (b : Byte) (d : Dec) : (d.fold b).acc = d.acc ^^^ b := rfl
@[simp] theorem Dec.fold_buf (b : Byte) (d : Dec) : (d.fold b).buf = d.buf := rfl
@[simp] theorem Dec.fold_epoch (b : Byte) (d : Dec) : (d.fold b).epoch = d.epoch := rfl

/-! ### `Dec.key` -/

@[simp] theorem Dec.key_state (d : Dec) : d.key.state = d.state := rfl
@[simp] theorem Dec.key_len (d : Dec) : d.key.len = d.len := rfl
@[simp] theorem Dec.key_cnt (d : Dec) : d.key.cnt = d.cnt := rfl
@[simp] theorem Dec.key_acc (d : Dec) : d.key.acc = d.acc := rfl

/-! ### `andThen` -/

@[simp] theorem andThen_next (s : State) (k : State → Host.Outcome State Fault Refusal) : andThen (.next s) k = k s := rfl
@[simp] theorem andThen_refused (r : Refusal) (k : State → Host.Outcome State Fault Refusal) :
    andThen (.refused r) k = .refused r := rfl

theorem andThen_eq_next {o : Host.Outcome State Fault Refusal} {k : State → Host.Outcome State Fault Refusal} {t : State} :
    andThen o k = .next t ↔ ∃ s, o = .next s ∧ k s = .next t := by
  cases o with
  | next s => simp [andThen]
  | fault r => cases r
  | refused r => simp [andThen]

end Sys2Proof.Machine
end

