-- ==== Sys2Proof/Laws/Words.lean ====
section
/-! SUPPORT. The parameters as numbers, the checksum, frames, and which row a byte selects. -/

namespace Sys2Proof.Machine

theorem params_pre1 : params.pre1 = 0x24 := rfl
theorem params_pre2 : params.pre2 = 0x4D := rfl
theorem params_pre3 : params.pre3 = 0x3C := rfl
theorem params_rxPre1 : params.rxPre1 = 0x24 := rfl
theorem params_rxPre2 : params.rxPre2 = 0x4D := rfl
theorem params_rxPre3 : params.rxPre3 = 0x3C := rfl

@[simp] theorem xorAll_nil : xorAll [] = 0 := rfl
@[simp] theorem xorAll_cons (b : Byte) (bs : List Byte) : xorAll (b :: bs) = b ^^^ xorAll bs := rfl

theorem xorAll_append (xs ys : List Byte) : xorAll (xs ++ ys) = xorAll xs ^^^ xorAll ys := by
  induction xs with
  | nil => simp
  | cons x xs ih => simp [ih, BitVec.xor_assoc]

/-- For an empty payload the checksum is the command id (R73). -/
theorem checksum_nil (cmd : Byte) : checksum cmd [] = cmd := by simp [checksum]

theorem countOf_val {n : Nat} (h : n ≤ maxPayload) : (countOf n).val = n := Nat.mod_eq_of_lt (Nat.lt_succ_of_le h)

theorem payloadDue_iff (k : RowKey) : payloadDue k = true ↔ k.state = .awaitPayload ∧ k.cnt < k.len := by
  simp [payloadDue]

theorem checksumDue_iff (k : RowKey) : checksumDue k = true ↔ k.state = .awaitPayload ∧ k.cnt = k.len := by
  simp [checksumDue]

end Sys2Proof.Machine

namespace Sys2Proof

open Sys2Proof.Machine

/-- A frame has six bytes beside its payload (R71). -/
@[simp] theorem encodeFrame_length (cmd : Byte) (payload : List Byte) :
    (encodeFrame cmd payload).length = payload.length + 6 := by
  simp [encodeFrame]

theorem selectRow_none (k : RowKey) : selectRow k none = .decIdle := rfl

theorem selectRow_awaitPreamble1 {k : RowKey} (b : Byte) (h : k.state = .awaitPreamble1) :
    selectRow k (some b) = if b = params.rxPre1 then .decP1Match else .decP1Miss b := by
  simp [selectRow, h]

theorem selectRow_awaitPreamble2 {k : RowKey} (b : Byte) (h : k.state = .awaitPreamble2) :
    selectRow k (some b) = if b = params.rxPre2 then .decP2Match else .decP2Miss b := by
  simp [selectRow, h]

theorem selectRow_awaitPreamble3 {k : RowKey} (b : Byte) (h : k.state = .awaitPreamble3) :
    selectRow k (some b) = if b = params.rxPre3 then .decP3Match else .decP3Miss b := by
  simp [selectRow, h]

theorem selectRow_awaitLength {k : RowKey} (b : Byte) (h : k.state = .awaitLength) :
    selectRow k (some b) = if b.toNat ≤ maxPayload then .decLenOk b else .decLenOver b := by
  simp [selectRow, h]

theorem selectRow_awaitCommand {k : RowKey} (b : Byte) (h : k.state = .awaitCommand) :
    selectRow k (some b) = .decCmd b := by
  simp [selectRow, h]

theorem selectRow_payload {k : RowKey} (b : Byte) (h : payloadDue k = true) : selectRow k (some b) = .decPayload b := by
  simp [selectRow, (payloadDue_iff k |>.1 h).1, h]

theorem selectRow_checksum {k : RowKey} (b : Byte) (h : checksumDue k = true) :
    selectRow k (some b) = if b = k.acc then .decCsumOk b else .decCsumBad b := by
  obtain ⟨h1, h2⟩ := (checksumDue_iff k).1 h
  simp [selectRow, h1, payloadDue, h2]

/-- The row that a byte selects is selected: the table leaves out no byte of a state in which `DEC.cnt` is at most `DEC.len`. -/
theorem selectRow_selected {k : RowKey} (hk : k.cnt ≤ k.len) (input : Option Byte) :
    (selectRow k input).selected k = true := by
  cases input with
  | none => rfl
  | some b =>
    cases h : k.state with
    | awaitPreamble1 => rw [selectRow_awaitPreamble1 b h]; split <;> simp_all [Instr.selected]
    | awaitPreamble2 => rw [selectRow_awaitPreamble2 b h]; split <;> simp_all [Instr.selected]
    | awaitPreamble3 => rw [selectRow_awaitPreamble3 b h]; split <;> simp_all [Instr.selected]
    | awaitLength => rw [selectRow_awaitLength b h]; split <;> simp_all [Instr.selected]
    | awaitCommand => simp [selectRow_awaitCommand b h, Instr.selected, h]
    | awaitPayload =>
      by_cases hd : k.cnt < k.len
      · have hp := (payloadDue_iff k).2 ⟨h, hd⟩
        simp [selectRow_payload b hp, Instr.selected, hp]
      · have hc := (checksumDue_iff k).2 ⟨h, le_antisymm hk (not_lt.1 hd)⟩
        rw [selectRow_checksum b hc]
        split <;> simp_all [Instr.selected]

end Sys2Proof
end

