-- ==== Sys2Proof/Laws/Block.lean ====
section
/-! SUPPORT. What the block's operations can do: the one shared operation of the transitions, the encoder's loop, and the step on
each kind of schedule entry. -/

namespace Sys2Proof.Machine

/-! ### Taking a row -/

theorem State.takeRow_selected {row : Instr} {s : State} (h : row.selected s.dec.key = true) (d : Dec) (r : DecResult) :
    s.takeRow row d r = .next (({ s with dec := d } : State).answer r) := by
  simp [takeRow, h]

theorem State.takeRow_unselected {row : Instr} {s : State} (h : row.selected s.dec.key = false) (d : Dec) (r : DecResult) :
    s.takeRow row d r = .refused .notSelected := by
  simp [takeRow, h]

/-- A row is taken only where its condition holds, and then `DEC` and the result are the row's. -/
theorem State.takeRow_eq_next {row : Instr} {s t : State} {d : Dec} {r : DecResult} :
    s.takeRow row d r = .next t ↔ row.selected s.dec.key = true ∧ t = ({ s with dec := d } : State).answer r := by
  by_cases h : row.selected s.dec.key = true
  · rw [takeRow_selected h]
    exact ⟨fun e => ⟨h, (Host.Outcome.next.inj e).symm⟩, fun ⟨_, e⟩ => by rw [e]⟩
  · rw [takeRow_unselected (Bool.eq_false_iff.2 h)]
    exact ⟨fun e => (nomatch e), fun ⟨e, _⟩ => absurd e h⟩

/-- What `DEC` becomes by a transition (R122 to R134). -/
def transitionDec (d : Dec) : Instr → Dec
  | .decP1Match => { d with state := .awaitPreamble2 }
  | .decP2Match => { d with state := .awaitPreamble3 }
  | .decP3Match => { d with state := .awaitLength }
  | .decLenOk b => { d.fold b with len := countOf b.toNat, state := .awaitCommand }
  | .decCmd b => { d.fold b with cmd := b, state := .awaitPayload }
  | .decPayload b => { d.fold b with buf := d.buf.write d.cnt b, cnt := countOf (d.cnt + 1) }
  | .decP1Miss _ | .decP2Miss _ | .decP3Miss _ | .decLenOver _ | .decCsumOk _ | .decCsumBad _ => d.resync
  | .decIdle | .encCmd _ | .encPayload _ _ | .decStep => d

/-- What a transition answers (R133: a frame from `DEC_CSUM_OK` alone). -/
def transitionResult (d : Dec) : Instr → DecResult
  | .decCsumOk _ => .frame d.completed
  | _ => .noFrame

/-- Every transition is a row taken. -/
theorem exec_transition {i : Instr} (hi : isTransition i = true) (s : State) :
    exec i s = s.takeRow i (transitionDec s.dec i) (transitionResult s.dec i) := by
  cases i <;> first | rfl | simp [isTransition] at hi

theorem selectRow_isTransition (k : RowKey) (input : Option Byte) : isTransition (selectRow k input) = true := by
  unfold selectRow
  repeat' split
  all_goals rfl

theorem execTransition_eq_exec {i : Instr} (hi : isTransition i = true) (s : State) : execTransition i s = exec i s := by
  cases i <;> first | rfl | simp [isTransition] at hi

/-- Where the counts are in order, the row that an input selects is taken. -/
theorem exec_selectRow {s : State} (hk : s.dec.cnt ≤ s.dec.len) (input : Option Byte) :
    exec (selectRow s.dec.key input) s =
      .next (({ s with dec := transitionDec s.dec (selectRow s.dec.key input) } : State).answer
        (transitionResult s.dec (selectRow s.dec.key input))) := by
  rw [exec_transition (selectRow_isTransition _ _), State.takeRow_selected (selectRow_selected hk input)]

/-! ### The decoder's step against the transport -/

theorem execDecStep_nil {s : State} (h : s.rx = []) : exec .decStep s = exec (selectRow s.dec.key none) s := by
  simp [exec, execDecStep, State.pollInput, State.afterPoll, State.rxAvail, h, selectRow_none, execTransition]

theorem execDecStep_cons {s : State} {b : Byte} {rest : List Byte} (h : s.rx = b :: rest) :
    exec .decStep s = exec (selectRow s.dec.key (some b)) { s with rx := rest } := by
  rw [← execTransition_eq_exec (selectRow_isTransition _ _)]
  simp [exec, execDecStep, State.pollInput, State.afterPoll, State.rxAvail, State.rxRead, h]

/-! ### The encoder -/

/-- The payload loop appends the payload and the checksum folded on from where it starts. -/
theorem State.txPayload_eq (payload : List Byte) (ck : Byte) (s : State) :
    State.txPayload payload ck s = { s with tx := s.tx ++ payload ++ [ck ^^^ xorAll payload] } := by
  induction payload generalizing ck s with
  | nil => simp [txPayload, txWrite]
  | cons p ps ih => simp [txPayload, txWrite, ih, BitVec.xor_assoc]

theorem payloadFits_iff (payload : List Byte) : payloadFits payload = true ↔ payload.length ≤ maxPayload := by
  simp [payloadFits]

/-! ### A step of the machine -/

theorem step_idle {s : State} (h : s.schedule = []) : step s = .next s := by
  simp [step, h]

theorem step_event {s : State} {e : Event} {rest : List Event} (h : s.schedule = e :: rest) :
    step s = runEvent Config.hostParams e { s with schedule := rest } := by
  simp [step, h]

/-! ### Lines fed to the decoder -/

theorem feed_cons {x : Option Byte} {xs : List (Option Byte)} {s t : State} (h : exec (selectRow s.dec.key x) s = .next t) :
    feed (x :: xs) s = (feed xs t).map fun q => (q.1, t.result :: q.2) := by
  simp [feed, h]

/-- Feeding two lists in turn is feeding one after the other. -/
theorem feed_append (xs ys : List (Option Byte)) (s : State) :
    feed (xs ++ ys) s = (feed xs s).bind fun q => (feed ys q.1).map fun q' => (q'.1, q.2 ++ q'.2) := by
  induction xs generalizing s with
  | nil => simp [feed]
  | cons x xs ih =>
    simp only [List.cons_append, feed]
    split
    · next t _ => rw [ih]; cases feed xs t <;> simp [Option.map_map, Function.comp_def]
    · rfl

end Sys2Proof.Machine
end

