-- ==== Sys2Proof/Laws/Frames.lean ====
section
/-! SUPPORT. What reading a request from its frame can answer. -/

namespace Sys2Proof

open Sys2Proof.Machine

/-- The frame of a request reads back as that request. -/
theorem decodeFrame_encodeFrame (cmd : Byte) (payload : List Byte) (h : payload.length ≤ 64) :
    decodeFrame (encodeFrame cmd payload) = .ok (requestOf cmd payload) := by
  have hn : (BitVec.ofNat 8 payload.length).toNat = payload.length := by simp; omega
  simp only [encodeFrame, decodeFrame, List.cons_append, List.nil_append]
  rw [hn]
  simp
  omega

/-- What reads as a request is the frame of one. -/
theorem decodeFrame_ok {f : List Byte} {i : Instr} (h : decodeFrame f = .ok i) :
    ∃ cmd payload, payload.length ≤ 64 ∧ i = requestOf cmd payload ∧ f = encodeFrame cmd payload := by
  unfold decodeFrame at h
  split at h
  · next f0 f1 f2 n cmd body =>
    split at h; · cases h
    split at h; · cases h
    split at h; · cases h
    split at h; · cases h
    split at h; · cases h
    next h1 h2 h3 h4 h5 =>
    injection h with h
    simp only [not_or, ne_eq, not_not] at h2 h4 h5
    have hl : (body.take n.toNat).length = n.toNat := by simp; omega
    refine ⟨cmd, body.take n.toNat, ?_, h.symm, ?_⟩
    · rw [hl]; simp at h3; exact h3
    · have : body = body.take n.toNat ++ [checksum cmd (body.take n.toNat)] := by
        rw [← h5, List.take_append_drop]
      rw [encodeFrame, hl]
      simp [h2, ← this]
  · cases h

/-- A request is well formed, depends on no state, and has its frame as its word. -/
theorem requestOf_wf (cmd : Byte) (payload : List Byte) (h : payload.length ≤ 64) (k : RowKey) :
    (requestOf cmd payload).wellFormed = true ∧ (requestOf cmd payload).selected k = true ∧ encode (requestOf cmd payload) = .enc (encodeFrame cmd payload) := by
  cases payload <;> simp_all [requestOf, Instr.wellFormed, Instr.selected, encode]

/-- The row that an input selects is well formed and has that input as its word. -/
theorem selectRow_encode {k : RowKey} (input : Option Byte) :
    (selectRow k input).wellFormed = true ∧ encode (selectRow k input) = .rx input := by
  unfold selectRow
  repeat' split
  all_goals simp_all [Instr.wellFormed, encode]

end Sys2Proof
end

