-- ==== Sys2Proof/Laws/Host.lean ====
section
/-! SUPPORT. What one entry of the schedule can do: which fields of the state each kind of move may change. -/

namespace Sys2Proof.Machine

/-! ### The block -/

/-- A payload request that fits appends its frame and nothing else. -/
theorem execEncPayload_eq (cmd : Byte) (payload : List Byte) (s : State) (h : payload.length ≤ 64) :
    exec (.encPayload cmd payload) s = .next { s with tx := s.tx ++ encodeFrame cmd payload } := by
  simp [exec, execEncPayload, payloadFits, h, State.txPayload_eq, State.txWrite, encodeFrame, checksum]

/-- A command request appends its frame and nothing else. -/
theorem execEncCmd_eq (cmd : Byte) (s : State) :
    exec (.encCmd cmd) s = .next { s with tx := s.tx ++ encodeFrame cmd [] } := by
  simp [exec, execEncCmd, State.txWrite, encodeFrame, checksum]

/-- A decoder step changes `DEC`, the inbound stream and the results alone. -/
theorem decStep_shape {s t : State} (h : exec .decStep s = .next t) :
    t = { s with dec := t.dec, rx := t.rx, result := t.result, delivered := t.delivered } := by
  have tr : ∀ i, isTransition i = true → ∀ s t : State, exec i s = .next t →
      t = { s with dec := t.dec, result := t.result, delivered := t.delivered } := by
    intro i hi s t h
    rw [exec_transition hi, State.takeRow_eq_next] at h
    rw [h.2]; cases transitionResult s.dec i <;> rfl
  cases hr : s.rx with
  | nil => rw [execDecStep_nil hr] at h; have := tr _ (selectRow_isTransition _ _) _ _ h; rw [this]
  | cons b r => rw [execDecStep_cons hr] at h; have := tr _ (selectRow_isTransition _ _) _ _ h; rw [this]

/-- An invocation that is not refused appends a frame, or takes a decoder step or the row that an input selects. -/
theorem invoke_cases {op} {s t : State} (h : invokeBlock op s = .next t) :
    (∃ cmd pl, pl.length ≤ 64 ∧ t = { s with tx := s.tx ++ encodeFrame cmd pl }) ∨
    (∃ i, (isTransition i = true ∨ i = .decStep) ∧ (i = .decStep ∨ ∃ input, i = selectRow s.dec.key input) ∧
      exec i s = .next t) := by
  unfold invokeBlock at h
  split at h; · cases h
  split at h
  · next i hd =>
    cases op with
    | enc f =>
      obtain ⟨cmd, pl, hp, rfl, rfl⟩ := decodeFrame_ok hd
      left
      refine ⟨cmd, pl, hp, ?_⟩
      cases pl with
      | nil => rw [requestOf, execEncCmd_eq] at h; cases h; rfl
      | cons q qs => rw [requestOf, execEncPayload_eq _ _ _ hp] at h; cases h; rfl
    | poll => right; cases hd; exact ⟨.decStep, .inr rfl, .inl rfl, h⟩
    | rx input => right; injection hd with hd; exact ⟨_, .inl (by rw [← hd]; exact selectRow_isTransition _ _), .inr ⟨input, hd.symm⟩, h⟩
  · cases h

/-! ### The host's threads -/

theorem channelBytes_length {vs bs} (h : channelBytes vs = some bs) : bs.length = vs.length := by
  induction vs generalizing bs with
  | nil => simp [channelBytes] at h; simp [← h]
  | cons v vs ih =>
    simp only [channelBytes] at h
    split at h
    · next b bs' _ h2 => injection h with h; rw [← h]; simp [ih h2]
    · cases h

/-- The control payload has five bytes (R82). -/
theorem controlPayload_length {c bs} (h : controlPayload c = some bs) : bs.length = 5 := by
  rw [channelBytes_length h]; rfl

/-- An encode operation that the scheduler issues appends its frame and moves the thread on. -/
theorem txIssue_enc {i : Instr} {cmd p} (hi : (i = .encCmd cmd ∧ p = []) ∨ (i = .encPayload cmd p ∧ p.length ≤ 64)) (pos) (s : State) :
    txIssue i pos s = .next {s with tx := s.tx ++ encodeFrame cmd p, txPos := pos} := by
  rcases hi with ⟨rfl, rfl⟩ | ⟨rfl, hp⟩
  · simp [txIssue, execEncCmd_eq, andThen, State.txAt]
  · simp [txIssue, execEncPayload_eq _ _ _ hp, andThen, State.txAt]

/-- A move of the scheduler changes its thread's place and the requests, and appends one frame at most. -/
theorem txStep_cases {p n} {s t : State} (h : txStep p n s = .next t) :
    ∃ req pos, t = { s with req := req, txPos := pos } ∨
      ∃ cmd pl, pl.length ≤ 64 ∧ t = { s with req := req, txPos := pos, tx := s.tx ++ encodeFrame cmd pl } := by
  unfold txStep at h
  split at h
  · cases h; exact ⟨s.req, s.txPos, .inl rfl⟩
  · cases h; exact ⟨s.req, _, .inl rfl⟩
  · split at h
    · split at h
      · cases h; exact ⟨s.req, _, .inl rfl⟩
      · cases h; exact ⟨_, _, .inl rfl⟩
    · cases h; exact ⟨s.req, _, .inl rfl⟩
  · rw [txIssue_enc (.inl ⟨rfl, rfl⟩)] at h; cases h; exact ⟨s.req, _, .inr ⟨_, [], by simp, rfl⟩⟩
  · cases h; exact ⟨_, _, .inl rfl⟩
  · cases h; exact ⟨s.req, _, .inl rfl⟩
  · cases h; exact ⟨s.req, _, .inl rfl⟩
  · split at h
    · next pl hpl => rw [txIssue_enc (.inr ⟨rfl, by rw [controlPayload_length hpl]; omega⟩)] at h; cases h; exact ⟨s.req, _, .inr ⟨_, pl, by rw [controlPayload_length hpl]; omega, rfl⟩⟩
    · cases h
  · rw [txIssue_enc (.inl ⟨rfl, rfl⟩)] at h; cases h; exact ⟨s.req, _, .inr ⟨_, [], by simp, rfl⟩⟩

/-- A move of the Receive Loop is a decoder step, or changes the snapshot and its thread's place alone. -/
theorem rxStep_cases {p} {s t : State} (h : rxStep p s = .next t) :
    (t.dec = s.dec ∧ t.delivered = s.delivered ∧ t = {s with snapshot := t.snapshot, rxPos := t.rxPos}) ∨
    (∃ u pos, exec .decStep s = .next u ∧ t = {u with rxPos := pos}) := by
  unfold rxStep at h
  split at h
  · cases h; left; exact ⟨rfl, rfl, rfl⟩
  · split at h
    · cases h; left; exact ⟨rfl, rfl, rfl⟩
    · rw [andThen_eq_next] at h
      obtain ⟨u, h1, h2⟩ := h
      cases h2; right; exact ⟨u, _, h1, rfl⟩
  · next r _ =>
    cases h; left
    cases r with
    | noFrame => exact ⟨rfl, rfl, rfl⟩
    | frame f => simp only [State.handleResult]; split <;> exact ⟨rfl, rfl, rfl⟩

/-! ### The Control Surface -/

/-- A field write changes the shared records alone. -/
theorem write_shape (w : FieldWrite) (s : State) :
    s.write w = { s with ctl := (s.write w).ctl, req := (s.write w).req } := by
  cases w <;> rfl

/-- The writes of a call change the shared records and the list of unfinished calls alone. -/
theorem beginWrites_shape (ws : List FieldWrite) (s : State) :
    ∃ ctl req calls, s.beginWrites ws = {s with ctl := ctl, req := req, calls := calls} := by
  unfold State.beginWrites
  split
  · exact ⟨s.ctl, s.req, s.calls, rfl⟩
  · rw [write_shape]; exact ⟨_, _, s.calls, rfl⟩
  · rw [write_shape]; exact ⟨_, _, _, rfl⟩

theorem callerStep_shape (k : Nat) (s : State) :
    ∃ ctl req calls, s.callerStep k = {s with ctl := ctl, req := req, calls := calls} := by
  unfold State.callerStep
  split
  · exact ⟨s.ctl, s.req, s.calls, rfl⟩
  · exact ⟨s.ctl, s.req, _, rfl⟩
  · rw [write_shape]; exact ⟨_, _, _, rfl⟩
  · rw [write_shape]; exact ⟨_, _, _, rfl⟩

/-! ### The step -/

/-- A step leaves the state as it is, or is the next entry of the schedule. -/
theorem step_cases {s t : State} (h : step s = .next t) :
    t = s ∨ ∃ e rest, s.schedule = e :: rest ∧ runEvent Config.hostParams e {s with schedule := rest} = .next t := by
  cases hs : s.schedule with
  | nil => rw [step_idle hs] at h; cases h; exact .inl rfl
  | cons e rest => rw [step_event hs] at h; exact .inr ⟨e, rest, rfl, h⟩

end Sys2Proof.Machine
end

