-- ==== Sys2Proof/Laws/PerInstr.lean ====
section
/-! SUPPORT. Per operation: the shape of its word. A request's word is a frame of 6 to 70 bytes (R71), the transitions have the DEC
rows' words, and `DEC_STEP` alone has none of its own (R85, R88). -/

namespace Sys2Proof.Laws.WordShape

open Sys2Proof Sys2Proof.Machine

/-- The word of a well-formed operation has the shape of its row's format. -/
def Statement (i : Instr) : Prop :=
  i.wellFormed = true →
    match encode i with
    | .enc frame => isTransition i = false ∧ 6 ≤ frame.length ∧ frame.length ≤ 70
    | .poll => i = .decStep
    | .rx _ => isTransition i = true

theorem encCmd (cmd : Byte) : Statement (.encCmd cmd) := fun _ => by simp [encode, isTransition]

theorem encPayload (cmd : Byte) (payload : List Byte) : Statement (.encPayload cmd payload) := fun h => by
  have h : payload.length ≤ 64 := by simpa [Instr.wellFormed] using h
  refine ⟨rfl, ?_, ?_⟩ <;> simp only [encodeFrame_length] <;> omega

theorem decStep : Statement .decStep := fun _ => rfl
theorem decIdle : Statement .decIdle := fun _ => rfl
theorem decP1Match : Statement .decP1Match := fun _ => rfl
theorem decP1Miss (b : Byte) : Statement (.decP1Miss b) := fun _ => rfl
theorem decP2Match : Statement .decP2Match := fun _ => rfl
theorem decP2Miss (b : Byte) : Statement (.decP2Miss b) := fun _ => rfl
theorem decP3Match : Statement .decP3Match := fun _ => rfl
theorem decP3Miss (b : Byte) : Statement (.decP3Miss b) := fun _ => rfl
theorem decLenOk (b : Byte) : Statement (.decLenOk b) := fun _ => rfl
theorem decLenOver (b : Byte) : Statement (.decLenOver b) := fun _ => rfl
theorem decCmd (b : Byte) : Statement (.decCmd b) := fun _ => rfl
theorem decPayload (b : Byte) : Statement (.decPayload b) := fun _ => rfl
theorem decCsumOk (b : Byte) : Statement (.decCsumOk b) := fun _ => rfl
theorem decCsumBad (b : Byte) : Statement (.decCsumBad b) := fun _ => rfl

end Sys2Proof.Laws.WordShape
end

