-- ==== Sys2Proof/Tests/Slice0.lean ====
section
/-! SUPPORT. Tests. Expected results come from `spec/95_test_vectors.md` (S, V, T and P numbers) or from the rule named. After them,
for each statement with hypotheses, a state and operands that meet them. -/

namespace Sys2Proof.Tests

open Sys2Proof Sys2Proof.Machine

/-! ## Helpers -/

/-- `DEC` with these fields and these first bytes in the buffer. -/
def decAt (state : FsmState) (len : Count) (cmd : Byte) (cnt : Count) (acc : Byte) (buf : Memory := []) : Dec :=
  { state := state, len := len, cmd := cmd, cnt := cnt, acc := acc, buf := buf, epoch := 0 }

/-- The reset state with this decoder. -/
def withDec (d : Dec) : State := { State.reset with dec := d }

/-- What is seen of a next state; nothing where there is none. -/
def look {α : Type} (f : State → α) : Host.Outcome State Fault Refusal → Option α
  | .next t => some (f t)
  | _ => none

/-- The five fields and the result of a step, as the tables of 95_test_vectors.md give them. -/
def seen (t : State) : FsmState × Count × Byte × Count × Byte × DecResult :=
  (t.dec.state, t.dec.len, t.dec.cmd, t.dec.cnt, t.dec.acc, t.result)

/-- A key in a state, with the counts and the accumulator at their reset values. -/
def keyIn (state : FsmState) : RowKey := { state := state, len := 0, cnt := 0, acc := 0 }

/-- The ids of programs P1, P3 and P4, example values that bind nothing. -/
def exampleParams : HostParams :=
  { cmdArm := 0x01, cmdDisarm := 0x02, cmdAccCal := 0x03, cmdMagCal := 0x04, cmdPersist := 0x05, cmdTrimUp := 0x06,
    cmdTrimDown := 0x07, cmdTrimLeft := 0x08, cmdTrimRight := 0x09, cmdSetControl := 200, cmdReqSensor := 105,
    cmdSensorReport := 0x69, altholdOn := 100, snapshotLen := 3, tick := 1 }

/-- The payload of V7: byte i is i. -/
def payload64 : List Byte := (List.range 64).map (BitVec.ofNat 8)

/-- S1's frame and S2's. -/
def frameS1 : List Byte := [0x24, 0x4D, 0x3C, 0x00, 0x69, 0x69]
def frameS2 : List Byte := [0x24, 0x4D, 0x3C, 0x05, 0xC8, 0x7D, 0x7D, 0x7D, 0x00, 0x00, 0xB0]

/-! ## WellFormed: one ill-formed term for each check, and its well-formed neighbour -/

/-- R105: 65 bytes are refused, 64 are not. -/
theorem test_wellFormed_payload_bound :
    (Instr.encPayload 1 (List.replicate 65 0)).wellFormed = false ∧
    (Instr.encPayload 1 (List.replicate 64 0)).wellFormed = true := by decide

/-- R124, R126, R128: a miss row has no matching byte. -/
theorem test_wellFormed_miss_bytes :
    (Instr.decP1Miss 0x24).wellFormed = false ∧ (Instr.decP2Miss 0x4D).wellFormed = false ∧
    (Instr.decP3Miss 0x3C).wellFormed = false ∧ (Instr.decP2Miss 0x24).wellFormed = true := by decide

/-- R129, R130: 64 and 65. -/
theorem test_wellFormed_length_bounds :
    (Instr.decLenOk 0x41).wellFormed = false ∧ (Instr.decLenOver 0x40).wellFormed = false ∧
    (Instr.decLenOk 0x40).wellFormed = true ∧ (Instr.decLenOver 0x41).wellFormed = true := by decide

/-! ## Decoding: words written out from R70, R84 and the vectors -/

/-- S1. -/
theorem test_decode_encCmd : decode (keyIn .awaitPreamble1) (.enc frameS1) = .ok (.encCmd 0x69) := by rfl
/-- S2, V5. -/
theorem test_decode_encPayload :
    decode (keyIn .awaitPreamble1) (.enc frameS2) = .ok (.encPayload 0xC8 [0x7D, 0x7D, 0x7D, 0x00, 0x00]) ∧
    decode (keyIn .awaitPayload) (.enc [0x24, 0x4D, 0x3C, 0x02, 0x10, 0xFF, 0xFF, 0x12]) = .ok (.encPayload 0x10 [0xFF, 0xFF]) := by
  exact ⟨rfl, rfl⟩
/-- R74: a wrong checksum, a wrong preamble, a length above 64, a byte too few, and five bytes only. -/
theorem test_decode_rejects :
    decode (keyIn .awaitPreamble1) (.enc [0x24, 0x4D, 0x3C, 0x00, 0x69, 0x68]) = .error .badChecksum ∧
    decode (keyIn .awaitPreamble1) (.enc [0x24, 0x4D, 0x3E, 0x00, 0x69, 0x69]) = .error .badPreamble ∧
    decode (keyIn .awaitPreamble1) (.enc [0x24, 0x4D, 0x3C, 0x41, 0x69, 0x28]) = .error .lengthOver ∧
    decode (keyIn .awaitPreamble1) (.enc [0x24, 0x4D, 0x3C, 0x01, 0x10, 0x11]) = .error .wrongLength ∧
    decode (keyIn .awaitPreamble1) (.enc [0x24, 0x4D, 0x3C, 0x00, 0x69]) = .error .tooShort := by
  exact ⟨rfl, rfl, rfl, rfl, rfl⟩
/-- R85: `DEC_STEP` has no bits of its own. -/
theorem test_decode_decStep : decode (keyIn .awaitLength) .poll = .ok .decStep := by rfl
/-- T1. -/
theorem test_decode_decIdle : decode (keyIn .awaitPayload) (.rx none) = .ok .decIdle := by rfl
/-- T2, T3. -/
theorem test_decode_preamble1 :
    decode (keyIn .awaitPreamble1) (.rx (some 0x24)) = .ok .decP1Match ∧
    decode (keyIn .awaitPreamble1) (.rx (some 0x4D)) = .ok (.decP1Miss 0x4D) := by exact ⟨rfl, rfl⟩
/-- T4, T5. -/
theorem test_decode_preamble2 :
    decode (keyIn .awaitPreamble2) (.rx (some 0x4D)) = .ok .decP2Match ∧
    decode (keyIn .awaitPreamble2) (.rx (some 0x24)) = .ok (.decP2Miss 0x24) := by exact ⟨rfl, rfl⟩
/-- T6, T7. -/
theorem test_decode_preamble3 :
    decode (keyIn .awaitPreamble3) (.rx (some 0x3C)) = .ok .decP3Match ∧
    decode (keyIn .awaitPreamble3) (.rx (some 0x3E)) = .ok (.decP3Miss 0x3E) := by exact ⟨rfl, rfl⟩
/-- T8, T9. -/
theorem test_decode_length :
    decode (keyIn .awaitLength) (.rx (some 0x40)) = .ok (.decLenOk 0x40) ∧
    decode (keyIn .awaitLength) (.rx (some 0x41)) = .ok (.decLenOver 0x41) := by exact ⟨rfl, rfl⟩
/-- T10. -/
theorem test_decode_command : decode (keyIn .awaitCommand) (.rx (some 0xC8)) = .ok (.decCmd 0xC8) := by rfl
/-- T11; a payload byte equal to the accumulator is a payload byte still (R132). -/
theorem test_decode_payload :
    decode { state := .awaitPayload, len := 5, cnt := 0, acc := 0xCD } (.rx (some 0x7D)) = .ok (.decPayload 0x7D) ∧
    decode { state := .awaitPayload, len := 5, cnt := 4, acc := 0x7D } (.rx (some 0x7D)) = .ok (.decPayload 0x7D) := by
  exact ⟨rfl, rfl⟩
/-- T12, T13. -/
theorem test_decode_checksum :
    decode { state := .awaitPayload, len := 0, cnt := 0, acc := 0x69 } (.rx (some 0x69)) = .ok (.decCsumOk 0x69) ∧
    decode { state := .awaitPayload, len := 1, cnt := 1, acc := 0xBB } (.rx (some 0xBA)) = .ok (.decCsumBad 0xBA) := by
  exact ⟨rfl, rfl⟩

/-- R88: table words, offset 0 the most significant byte; S1's command as a header and as a frame, V4's payload frame. The
bytes in the other order are no frame, and a width of 41 or 9 bits is no word (log 2). -/
theorem test_decodeTableWord_frames :
    decodeTableWord 40 0x244D3C0069 = some (.encCmd 0x69) ∧
    decodeTableWord 48 0x244D3C006969 = some (.encCmd 0x69) ∧
    decodeTableWord 56 0x244D3C0110AABB = some (.encPayload 0x10 [0xAA]) ∧
    decodeTableWord 40 0x244D3C0210 = some (.encPayload 0x10 [0x00, 0x00]) ∧
    decodeTableWord 40 0x69003C4D24 = none ∧ decodeTableWord 41 0x244D3C0069 = none ∧ decodeTableWord 9 0x24 = none ∧
    decodeTableWord 40 0x244D3C4110 = none := by decide

/-- R84's classes as one-byte words (log 2). -/
theorem test_decodeTableWord_bytes :
    decodeTableWord 8 0x24 = some .decP1Match ∧ decodeTableWord 8 0x4D = some .decP2Match ∧
    decodeTableWord 8 0x3C = some .decP3Match ∧ decodeTableWord 8 0x10 = some (.decCmd 0x10) ∧
    decodeTableWord 0 0 = some .decStep := by decide

/-! ## One step of each operation -/

/-- S1; V2. -/
theorem test_exec_encCmd :
    look State.tx (exec (.encCmd 105) State.reset) = some frameS1 ∧
    look State.tx (exec (.encCmd 255) State.reset) = some [0x24, 0x4D, 0x3C, 0x00, 0xFF, 0xFF] := by decide

/-- S2; V6, where the payload is the preamble. -/
theorem test_exec_encPayload :
    look State.tx (exec (.encPayload 200 [125, 125, 125, 0, 0]) State.reset) = some frameS2 ∧
    look State.tx (exec (.encPayload 0x24 [0x24, 0x4D, 0x3C]) State.reset) =
      some [0x24, 0x4D, 0x3C, 0x03, 0x24, 0x24, 0x4D, 0x3C, 0x72] := by decide

/-- V7's checksum and length; V9 is refused. -/
theorem test_exec_encPayload_bound :
    (look State.tx (exec (.encPayload 1 payload64) State.reset)).map (fun f => (f.length, f[69]?)) = some (70, some 0x41) ∧
    exec (.encPayload 1 (List.replicate 65 0)) State.reset = .refused .payloadTooLong := ⟨by decide, rfl⟩

/-- T2 by way of the transport: one byte is read, the second stays. -/
theorem test_exec_decStep :
    look (fun t => (t.dec.state, t.rx)) (exec .decStep { State.reset with rx := [0x24, 0x4D] }) =
      some (.awaitPreamble2, [0x4D]) ∧
    exec .decStep State.reset = .next State.reset := ⟨by decide, rfl⟩

/-- T1. -/
theorem test_exec_decIdle :
    look seen (exec .decIdle (withDec (decAt .awaitPayload 5 0xC8 2 0xCD))) = some (.awaitPayload, 5, 0xC8, 2, 0xCD, .noFrame) := by
  decide
/-- T2. -/
theorem test_exec_decP1Match : look seen (exec .decP1Match State.reset) = some (.awaitPreamble2, 0, 0, 0, 0, .noFrame) := by decide
/-- T3. -/
theorem test_exec_decP1Miss : look seen (exec (.decP1Miss 0x4D) State.reset) = some (.awaitPreamble1, 0, 0, 0, 0, .noFrame) := by
  decide
/-- T4. -/
theorem test_exec_decP2Match :
    look seen (exec .decP2Match (withDec (decAt .awaitPreamble2 0 0 0 0))) = some (.awaitPreamble3, 0, 0, 0, 0, .noFrame) := by decide
/-- T5. -/
theorem test_exec_decP2Miss :
    look seen (exec (.decP2Miss 0x24) (withDec (decAt .awaitPreamble2 0 0 0 0))) = some (.awaitPreamble1, 0, 0, 0, 0, .noFrame) := by
  decide
/-- T6. -/
theorem test_exec_decP3Match :
    look seen (exec .decP3Match (withDec (decAt .awaitPreamble3 0 0 0 0))) = some (.awaitLength, 0, 0, 0, 0, .noFrame) := by decide
/-- T7. -/
theorem test_exec_decP3Miss :
    look seen (exec (.decP3Miss 0x3E) (withDec (decAt .awaitPreamble3 0 0 0 0))) = some (.awaitPreamble1, 0, 0, 0, 0, .noFrame) := by
  decide
/-- T8. -/
theorem test_exec_decLenOk :
    look seen (exec (.decLenOk 0x40) (withDec (decAt .awaitLength 0 0 0 0))) = some (.awaitCommand, 64, 0, 0, 0x40, .noFrame) := by decide
/-- T9. -/
theorem test_exec_decLenOver :
    look seen (exec (.decLenOver 0x41) (withDec (decAt .awaitLength 0 0 0 0))) = some (.awaitPreamble1, 0, 0, 0, 0, .noFrame) := by
  decide
/-- T10. -/
theorem test_exec_decCmd :
    look seen (exec (.decCmd 0xC8) (withDec (decAt .awaitCommand 5 0 0 0x05))) = some (.awaitPayload, 5, 0xC8, 0, 0xCD, .noFrame) := by
  decide
/-- T11. -/
theorem test_exec_decPayload :
    look seen (exec (.decPayload 0x7D) (withDec (decAt .awaitPayload 5 0xC8 0 0xCD))) =
      some (.awaitPayload, 5, 0xC8, 1, 0xB0, .noFrame) ∧
    look (fun t => t.dec.buf) (exec (.decPayload 0x7D) (withDec (decAt .awaitPayload 5 0xC8 0 0xCD))) = some [(0, 0x7D)] := by
  decide
/-- The last cell (R50: index 63), in a buffer with older cells on both sides of the one written. -/
theorem test_exec_decPayload_order :
    look (fun t => (t.dec.cnt, t.dec.buf)) (exec (.decPayload 0xEE) (withDec (decAt .awaitPayload 64 1 63 0 [(2, 1), (63, 5)]))) =
      some (64, [(2, 1), (63, 0xEE)]) ∧
    look (fun t => t.dec.buf) (exec (.decPayload 0xEE) (withDec (decAt .awaitPayload 64 1 7 0 [(2, 1), (63, 5)]))) =
      some [(2, 1), (7, 0xEE), (63, 5)] := by decide
/-- T12. -/
theorem test_exec_decCsumOk :
    look seen (exec (.decCsumOk 0x69) (withDec (decAt .awaitPayload 0 0x69 0 0x69))) =
      some (.awaitPreamble1, 0, 0, 0, 0, .frame { cmd := 0x69, len := 0, payload := [] }) := by decide
/-- V22, position 10: the payload comes from the buffer, and an old byte beyond the length does not. -/
theorem test_exec_decCsumOk_payload :
    look State.delivered (exec (.decCsumOk 0xBB) (withDec (decAt .awaitPayload 1 0x10 1 0xBB [(0, 0xAA), (1, 0x77)]))) =
      some [{ cmd := 0x10, len := 1, payload := [0xAA] }] := by decide
/-- T13. -/
theorem test_exec_decCsumBad :
    look seen (exec (.decCsumBad 0xBA) (withDec (decAt .awaitPayload 1 0x10 1 0xBB [(0, 0xAA)]))) =
      some (.awaitPreamble1, 0, 0, 0, 0, .noFrame) ∧
    look (fun t => t.dec.buf) (exec (.decCsumBad 0xBA) (withDec (decAt .awaitPayload 1 0x10 1 0xBB [(0, 0xAA)]))) =
      some [(0, 0xAA)] := by decide

/-! ## The step of the machine -/

/-- A table word placed with `withFetchWord` runs next: S1, and T6's byte. -/
theorem test_step_withFetchWord :
    look State.tx (step (State.reset.withFetchWord 40 0x244D3C0069)) = some frameS1 ∧
    look (fun t => t.dec.state) (step (State.reset.withFetchWord 8 0x3C)) = some .awaitLength ∧
    look State.result (step (State.reset.withFetchWord 0 0)) = some .noFrame := by decide

/-- S4. -/
theorem test_call_setFlow :
    look (fun t => (t.ctl.flowX, t.ctl.flowY))
      (runEvents exampleParams [.call (.setFlow 50 (-50)), .caller 0] State.reset) = some (20, -20) ∧
    look (fun t => (t.ctl.flowX, t.ctl.flowY))
      (runEvents exampleParams [.call (.setFlow 7 (-20)), .caller 0] State.reset) = some (7, -20) := by decide

/-- P4's channels, before they are put in bytes: 155, 100, 125, 60, 0. -/
theorem test_controlPayload :
    controlPayload { roll := 10, pitch := -5, yaw := 0, throttle := 60, althold := 0, flowX := 20, flowY := -20 } =
      some [155, 100, 125, 60, 0] ∧
    controlPayload { roll := 111, pitch := 0, yaw := 0, throttle := 0, althold := 0, flowX := 20, flowY := 0 } = none := by decide

/-- P3's ends: a sensor report replaces the snapshot, an unknown id does not. -/
theorem test_rxStep_handles :
    look State.snapshot (rxStep exampleParams { State.reset with
      rxPos := .handle (.frame { cmd := 0x69, len := 3, payload := [1, 2, 3] }) }) = some (some [1, 2, 3]) ∧
    look State.snapshot (rxStep exampleParams { State.reset with
      rxPos := .handle (.frame { cmd := 0x33, len := 1, payload := [0x55] }) }) = some none := by decide

/-- P1's third tick: the request frame, and the command phase next. -/
theorem test_txStep_request :
    look (fun t => (t.tx, t.txPos)) (txStep exampleParams 0 { State.reset with txPos := .request }) =
      some (frameS1, .tick .command) := by decide

/-! ## Witnesses: for each statement with hypotheses, a state and operands that meet them all, at the boundary values of its clauses -/

/-- A decoder about to take its last payload byte of 64, at the count's boundary. -/
def decLastByte : Dec := decAt .awaitPayload 64 0x10 63 0

/-- T13's decoder: a checksum is due after one byte. -/
def decChecksumDue : Dec := decAt .awaitPayload 1 0x10 1 0xBB [(0, 0xAA)]

theorem reset_atReset : State.reset.dec.AtReset := ⟨rfl, rfl, rfl, rfl, rfl⟩

theorem resetDec_inv : (decAt .awaitPreamble1 0 0 0 0).Inv :=
  { countBounded := by decide, beforeLength := fun _ => ⟨rfl, rfl, rfl, rfl⟩, beforeCommand := fun h => (nomatch h),
    inPayload := fun h => (nomatch h), written := fun _ h => absurd h (Nat.not_lt_zero _), canonical := rfl }

theorem preamble2Dec_inv : (decAt .awaitPreamble2 0 0 0 0).Inv :=
  { countBounded := by decide, beforeLength := fun _ => ⟨rfl, rfl, rfl, rfl⟩, beforeCommand := fun h => (nomatch h),
    inPayload := fun h => (nomatch h), written := fun _ h => absurd h (Nat.not_lt_zero _), canonical := rfl }

theorem decChecksumDue_inv : decChecksumDue.Inv :=
  { countBounded := by decide
    beforeLength := fun h => by simp [decChecksumDue, decAt] at h
    beforeCommand := fun h => by simp [decChecksumDue, decAt] at h
    inPayload := fun _ => by decide
    written := fun i h => by
      have : i = 0 := Nat.lt_one_iff.1 h
      subst this; exact ⟨0xAA, rfl⟩
    canonical := by decide }

theorem witness_WordsDecodeToTheirOperations :
    (keyIn .awaitPreamble3).state = .awaitPreamble3 ∧ (keyIn .awaitLength).state = .awaitLength := ⟨rfl, rfl⟩

/-- One for each half, the payload at its bound and at length 0, and the rows with a bound. -/
theorem witness_DecodeOfEncodeIsTheOperation :
    ((Instr.encPayload 1 payload64).wellFormed = true ∧ (Instr.encPayload 1 payload64).selected (keyIn .awaitCommand) = true) ∧
    ((Instr.encPayload 1 []).wellFormed = true ∧ (Instr.encPayload 1 []).selected (keyIn .awaitCommand) = true) ∧
    ((Instr.decLenOk 0x40).wellFormed = true ∧ (Instr.decLenOk 0x40).selected (keyIn .awaitLength) = true) ∧
    ((Instr.decLenOver 0x41).wellFormed = true ∧ (Instr.decLenOver 0x41).selected (keyIn .awaitLength) = true) ∧
    ((Instr.decPayload 0).wellFormed = true ∧ (Instr.decPayload 0).selected decLastByte.key = true) ∧
    ((Instr.decCsumOk 0xBB).wellFormed = true ∧ (Instr.decCsumOk 0xBB).selected decChecksumDue.key = true) ∧
    ((Instr.decCsumBad 0xBA).wellFormed = true ∧ (Instr.decCsumBad 0xBA).selected decChecksumDue.key = true) := by decide

theorem witness_EncodeOfDecodeIsTheWord :
    decChecksumDue.key.cnt ≤ decChecksumDue.key.len ∧
    decode decChecksumDue.key (.rx (some 0xBA)) = .ok (.decCsumBad 0xBA) ∧
    decode decChecksumDue.key (.enc frameS1) = .ok (.encCmd 0x69) := ⟨by decide, rfl, rfl⟩

theorem witness_RowClassesPartitionEveryState :
    decChecksumDue.key.cnt ≤ decChecksumDue.key.len ∧ decLastByte.key.cnt ≤ decLastByte.key.len := by decide

theorem witness_FramesAreExactlyTheEncodings :
    payload64.length ≤ 64 ∧ IsFrame frameS1 0x69 0 [] ∧ IsFrame frameS2 0xC8 5 [0x7D, 0x7D, 0x7D, 0x00, 0x00] ∧
    (([] : List Byte).length ≤ 64 ∧ encodeFrame 0x69 [] = encodeFrame 0x69 []) := by
  refine ⟨by decide, ?_, ?_, by decide, rfl⟩ <;> exact ⟨by decide, rfl, rfl, rfl, rfl, rfl, by decide, rfl, rfl, rfl⟩

theorem witness_PayloadFrameIsAppended : payload64.length ≤ 64 ∧ ([] : List Byte).length ≤ 64 := by decide

theorem witness_OversizePayloadIsRefused : 64 < (List.replicate 65 (0 : Byte)).length := by decide

theorem witness_PreambleMatchAdvances :
    (withDec (decAt .awaitPreamble1 0 0 0 0)).dec.state = .awaitPreamble1 ∧
    (withDec (decAt .awaitPreamble2 0 0 0 0)).dec.state = .awaitPreamble2 ∧
    (withDec (decAt .awaitPreamble3 0 0 0 0)).dec.state = .awaitPreamble3 := ⟨rfl, rfl, rfl⟩

/-- The byte `24` in the second and the third state. -/
theorem witness_PreambleMismatchResyncs :
    ((withDec (decAt .awaitPreamble1 0 0 0 0)).dec.state = .awaitPreamble1 ∧ (0x25 : Byte) ≠ 0x24) ∧
    ((withDec (decAt .awaitPreamble2 0 0 0 0)).dec.state = .awaitPreamble2 ∧ (0x24 : Byte) ≠ 0x4D) ∧
    ((withDec (decAt .awaitPreamble3 0 0 0 0)).dec.state = .awaitPreamble3 ∧ (0x24 : Byte) ≠ 0x3C) := by decide

theorem witness_LengthByteIsStored :
    (withDec (decAt .awaitLength 0 0 0 0)).dec.state = .awaitLength ∧ (0x40 : Byte).toNat ≤ 64 ∧ (0x00 : Byte).toNat ≤ 64 := by
  decide

theorem witness_OversizeLengthResyncs :
    (withDec (decAt .awaitLength 0 0 0 0)).dec.state = .awaitLength ∧ 64 < (0x41 : Byte).toNat ∧ 64 < (0xFF : Byte).toNat := by
  decide

theorem witness_CommandByteIsStored : (withDec (decAt .awaitCommand 5 0 0 5)).dec.state = .awaitCommand := rfl

theorem witness_PayloadByteIsStored :
    (withDec decLastByte).dec.state = .awaitPayload ∧ (withDec decLastByte).dec.cnt < (withDec decLastByte).dec.len := by decide

/-- The cell read is written. -/
theorem witness_MatchingChecksumDelivers :
    (withDec decChecksumDue).dec.state = .awaitPayload ∧ (withDec decChecksumDue).dec.cnt = (withDec decChecksumDue).dec.len ∧
    (0 < (withDec decChecksumDue).dec.len.val ∧ (withDec decChecksumDue).dec.buf.read 0 = some 0xAA) := by decide

theorem witness_WrongChecksumIsDropped :
    (withDec decChecksumDue).dec.state = .awaitPayload ∧ (withDec decChecksumDue).dec.cnt = (withDec decChecksumDue).dec.len ∧
    (0xBA : Byte) ≠ (withDec decChecksumDue).dec.acc := by decide

theorem witness_UnselectedTransitionIsRefused :
    isTransition .decP2Match = true ∧ Instr.decP2Match.selected State.reset.dec.key = false := ⟨rfl, rfl⟩

theorem witness_DecoderStepPollsOnce :
    State.reset.rx = [] ∧ ({ State.reset with rx := [0x24, 0x4D] } : State).rx = 0x24 :: [0x4D] := ⟨rfl, rfl⟩

theorem witness_DecoderStepAlwaysCompletes : (withDec decLastByte).dec.cnt ≤ (withDec decLastByte).dec.len := by decide

theorem witness_DecoderMovesOnlyAlongItsEdges :
    (∃ t, ({ State.reset with rx := [0x24] } : State).rx = 0x24 :: [] ∧
      exec .decStep { State.reset with rx := [0x24] } = .next t) ∧
    FsmState.awaitPreamble1 ∈ fsmSuccessors .awaitPayload := ⟨⟨_, rfl, rfl⟩, by decide⟩

theorem witness_OnlyTheChecksumByteDelivers :
    ∃ t, exec .decStep { withDec decChecksumDue with rx := [0xBB] } = .next t := ⟨_, rfl⟩

theorem witness_FrameRoundTrip : payload64.length ≤ 64 ∧ State.reset.dec.AtReset := ⟨by decide, reset_atReset⟩

theorem witness_BackToBackFramesAreAllDelivered :
    (∀ r ∈ [((0x69, []) : Byte × List Byte), (1, payload64)], r.2.length ≤ 64) ∧ State.reset.dec.AtReset :=
  ⟨by decide, reset_atReset⟩

/-- Noise with `24` in it that leaves the decoder in the first state, and noise without. -/
theorem witness_FrameAfterNoiseIsDelivered :
    (State.reset.dec.AtReset ∧ payload64.length ≤ 64 ∧
      ∃ t rs, feed (([0x24, 0x24] : List Byte).map some) State.reset = some (t, rs) ∧ t.dec.state = .awaitPreamble1) ∧
    (∀ b ∈ ([0x00, 0xFF, 0x4D, 0x3C] : List Byte), b ≠ 0x24) :=
  ⟨⟨reset_atReset, by decide, _, _, rfl, rfl⟩, by decide⟩

/-- The first and the last offset. -/
theorem witness_CorruptedByteRejectsTheFrame :
    (([0xAA] : List Byte).length ≤ 64 ∧ State.reset.dec.AtReset) ∧
    (4 ≤ 4 ∧ 4 ≤ ([0xAA] : List Byte).length + 5 ∧ (encodeFrame 0x10 [0xAA])[4]? ≠ some 0x11) ∧
    (4 ≤ 6 ∧ 6 ≤ ([0xAA] : List Byte).length + 5 ∧ (encodeFrame 0x10 [0xAA])[6]? ≠ some 0xBA) :=
  ⟨⟨by decide, reset_atReset⟩, by decide, by decide⟩

/-- From `AWAIT_PREAMBLE_1` and from `AWAIT_PREAMBLE_2`, where the bound is reached (R146). -/
theorem witness_RecoveryIsBounded :
    ((withDec (decAt .awaitPreamble1 0 0 0 0)).dec.Inv ∧ (List.replicate 70 (0 : Byte)).length = 70) ∧
    ((withDec (decAt .awaitPreamble2 0 0 0 0)).dec.Inv ∧ (withDec (decAt .awaitPreamble2 0 0 0 0)).dec.state ≠ .awaitPreamble1 ∧
      (List.replicate 69 (0 : Byte)).length = 69) :=
  ⟨⟨resetDec_inv, by decide⟩, preamble2Dec_inv, by decide, by decide⟩

/-- V20. -/
theorem witness_DeliveredFramesWereReceived :
    State.reset.dec.AtReset ∧ ∃ t, feed (frameS1.map some) State.reset =
      some (t, [.noFrame, .noFrame, .noFrame, .noFrame, .noFrame] ++ [.frame { cmd := 0x69, len := 0, payload := [] }]) :=
  ⟨reset_atReset, _, rfl⟩

/-- V33's first four inputs. -/
theorem witness_IdleStepsAreTransparent :
    ∃ t rs, feed [some 0x24, none, some 0x4D, some 0x3C] State.reset = some (t, rs) := ⟨_, _, rfl⟩

/-- V20. -/
theorem witness_SixBytesForEachFrame :
    State.reset.dec.AtReset ∧ ∃ t rs, feed (frameS1.map some) State.reset = some (t, rs) := ⟨reset_atReset, _, _, rfl⟩

theorem witness_EncoderAndDecoderCommute :
    payload64.length ≤ 64 ∧ (isTransition .decP1Match = true ∨ Instr.decP1Match = .decStep) ∧
    (isTransition .decStep = true ∨ Instr.decStep = .decStep) := ⟨by decide, .inl rfl, .inr rfl⟩

theorem witness_AgentsKeepToTheirOwnState :
    (∃ t, runEvent exampleParams (.txStep 0) { State.reset with txPos := .request } = .next t) ∧
    (∃ t, runEvent exampleParams .rxStep { State.reset with rxPos := .poll, rx := [0x24] } = .next t) ∧
    (Call.resetNeutral ≠ .start ∧ ∃ t, runEvent exampleParams (.call .resetNeutral) State.reset = .next t) ∧
    (∃ t, runEvent exampleParams (.caller 0) { State.reset with calls := [[.pitch 0, .yaw 0]] } = .next t) :=
  ⟨⟨_, rfl⟩, ⟨_, rfl⟩, ⟨by decide, _, rfl⟩, _, rfl⟩

theorem witness_StepsNeverRecallOutput :
    ∃ t, step { State.reset with schedule := [.invoke (.enc frameS1)] } = .next t := ⟨_, rfl⟩

theorem witness_DecoderInvariantInEveryReachableState :
    ∃ t, Host.Core.run Sys2Proof.core 2 ({ State.reset with schedule := [.arrive 0x24, .invoke .poll] } : State) = .next t ∧
      State.dec t = decAt .awaitPreamble2 0 0 0 0 := ⟨_, rfl, rfl⟩

theorem witness_EveryStepKeepsTheDecoderInvariant :
    (withDec decChecksumDue).dec.Inv ∧ ∃ t, step { withDec decChecksumDue with schedule := [.invoke (.rx (some 0xBB))] } = .next t :=
  ⟨decChecksumDue_inv, _, rfl⟩

theorem witness_EveryStepKeepsWholeFrames :
    WholeFrames frameS1 ∧ ∃ t, step { State.reset with tx := frameS1, schedule := [.invoke (.enc frameS2)] } = .next t :=
  ⟨⟨[(0x69, [])], by decide, rfl⟩, _, rfl⟩

/-- With an offset at the edge of its range, and an unfinished call that will write the other edge. -/
theorem witness_EveryStepKeepsFlowClamped :
    FlowClamped { State.reset with
      ctl := { State.reset.ctl with flowX := 20 }, calls := [[.flowY (-20)]], schedule := [.caller 0] } ∧
    ∃ t, step { State.reset with
      ctl := { State.reset.ctl with flowX := 20 }, calls := [[.flowY (-20)]], schedule := [.caller 0] } = .next t := by
  refine ⟨⟨⟨by decide, by decide⟩, ⟨by decide, by decide⟩, ?_⟩, _, rfl⟩
  intro ws hws w hw
  obtain rfl := List.mem_singleton.1 hws
  obtain rfl := List.mem_singleton.1 hw
  exact ⟨by decide, by decide⟩

theorem witness_OnlyTwoReasonsRefuseAnInvocation :
    State.reset.dec.cnt ≤ State.reset.dec.len ∧
    runEvent exampleParams (.invoke (.enc [])) State.reset = .refused .notAFrame ∧
    runEvent exampleParams (.invoke .poll) { State.reset with rxPos := .poll } = .refused .secondUser := ⟨by decide, rfl, rfl⟩

theorem witness_StepRunsTheDecodedOperation :
    ({ State.reset with schedule := [.invoke (.enc frameS1), .shutdown] } : State).schedule = .invoke (.enc frameS1) :: [.shutdown] ∧
    State.reset.owned (.enc frameS1) = false ∧ decode State.reset.dec.key (.enc frameS1) = .ok (.encCmd 0x69) := ⟨rfl, rfl, rfl⟩

theorem witness_StrayInvocationsAreRefused :
    ({ State.reset with schedule := [.invoke .poll] } : State).schedule = .invoke .poll :: [] ∧
    ({ State.reset with rxPos := .poll } : State).owned .poll = true ∧
    State.reset.owned (.enc []) = false ∧ decode State.reset.dec.key (.enc []) = .error .tooShort := ⟨rfl, rfl, rfl, rfl⟩

theorem witness_PlacedWordRunsNext :
    decodeTableWord 40 0x244D3C0069 = some (.encCmd 0x69) ∧ decodeTableWord 8 0x10 = some (.decCmd 0x10) ∧
    decodeTableWord 0 0 = some .decStep := by decide

theorem witness_RunIsItsScheduledEvents :
    ∃ t, runEvents Config.hostParams [.arrive 0x24, .invoke .poll] { State.reset with schedule := [.shutdown] } = .next t := ⟨_, rfl⟩

theorem witness_BytesAreConsumedInArrivalOrder :
    State.reset.rxPos = .stopped ∧
    ∃ t rs, feed (([0x24, 0x4D] : List Byte).map some) { State.reset with rx := [0x3C] } = some (t, rs) := ⟨rfl, _, _, rfl⟩

theorem witness_GetterReturnsTheSnapshot : ({ State.reset with snapshot := some [1, 2, 3] } : State).snapshot = some [1, 2, 3] := rfl

theorem witness_StartBeginsBothLoops :
    (State.reset.txPos = .stopped ∧ State.reset.rxPos = .stopped) ∧
    (({ State.reset with rxPos := .poll } : State).txPos ≠ .stopped ∨ ({ State.reset with rxPos := .poll } : State).rxPos ≠ .stopped) := by
  decide

theorem witness_SchedulerPhasesComeInOrder :
    phaseOf (.emit .trim true) = some .command ∧
    ∃ t, runEvent exampleParams (.txStep 0) { State.reset with txPos := .emit .trim true } = .next t := ⟨rfl, _, rfl⟩

/-- With a request to drain, and shutdown not signalled. -/
theorem witness_CommandPhaseDrainsTheRequests :
    ({ State.reset with txPos := .tick .command, req := { State.reset.req with arm := true } } : State).txPos = .tick .command ∧
    State.reset.shutdown = false := ⟨rfl, rfl⟩

/-- The first flag and the last, which has a direction. -/
theorem witness_LateRequestIsAbsorbedOrKept :
    (({ State.reset with txPos := .test .arm, req := { State.reset.req with arm := true } } : State).txPos = .test .arm ∧
      ({ State.reset with txPos := .test .arm, req := { State.reset.req with arm := true } } : State).req.get .arm = true) ∧
    (({ State.reset with txPos := .test .trim, req := { State.reset.req with trim := true } } : State).txPos = .test .trim ∧
      ({ State.reset with txPos := .test .trim, req := { State.reset.req with trim := true } } : State).req.get .trim = true) :=
  ⟨⟨rfl, rfl⟩, rfl, rfl⟩

/-- The five sums at their least and greatest values that fit, and one that does not fit. -/
theorem witness_ControlPhaseEmitsThePayload :
    (({ State.reset with txPos := .tick .control } : State).txPos = .tick .control ∧ State.reset.shutdown = false ∧
      (List.replicate 10 0).length = 10) ∧
    ((((0xFF : Byte).toNat : Int) = 125 + 110 + 20) ∧ (((0x00 : Byte).toNat : Int) = 125 + (-105) + (-20)) ∧
      (((0x7D : Byte).toNat : Int) = 125 + 0) ∧ (0xFF : Byte).toNat = 255 ∧ (0x00 : Byte).toNat = 0) ∧
    ∃ v ∈ [125 + 111 + 20, 125 + 0 + 0, 125 + 0, (0 : Int), (0 : Int)], v < 0 ∨ 255 < v := by
  exact ⟨⟨rfl, rfl, rfl⟩, by decide, 256, by decide, by decide⟩

theorem witness_RequestPhaseEmitsOneFrame :
    ({ State.reset with txPos := .tick .request } : State).txPos = .tick .request ∧ State.reset.shutdown = false := ⟨rfl, rfl⟩

/-- An iteration without a frame, one with a sensor report, and one with another frame. -/
theorem witness_ReceiveLoopKeepsSensorReports :
    (∃ t, exec .decStep { State.reset with rxPos := .poll } = .next t ∧ t.result = .noFrame) ∧
    (∃ t f, exec .decStep { withDec (decAt .awaitPayload 0 0x69 0 0x69) with rxPos := .poll, rx := [0x69] } = .next t ∧
      t.result = .frame f ∧ f.cmd = exampleParams.cmdSensorReport) ∧
    (∃ t f, exec .decStep { withDec (decAt .awaitPayload 0 0x33 0 0x33) with rxPos := .poll, rx := [0x33] } = .next t ∧
      t.result = .frame f ∧ f.cmd ≠ exampleParams.cmdSensorReport) :=
  ⟨⟨_, rfl, rfl⟩, ⟨_, _, rfl, rfl, rfl⟩, _, _, rfl, rfl, by decide⟩

theorem witness_ShutdownEndsTheLoops :
    ({ State.reset with shutdown := true, txPos := .tick .control, rxPos := .poll } : State).shutdown = true ∧
    ({ State.reset with shutdown := true, txPos := .tick .control, rxPos := .poll } : State).txPos = .tick .control ∧
    ({ State.reset with shutdown := true, txPos := .tick .control, rxPos := .poll } : State).rxPos = .poll := ⟨rfl, rfl, rfl⟩

end Sys2Proof.Tests
end

section
/-! PROOFS. Family 10_state: the decoder's invariant (R24, R27, R50), the part of the state that each agent keeps to (R28, R187),
output that only grows (R34), and the state after reset (R30, R31, R164). -/

namespace Sys2Proof.Machine

/-! ### The decoder's invariant, field update by field update -/

/-- In the preamble states and `AWAIT_LENGTH` the invariant is R27's zeros and the buffer's canonical form. -/
theorem Dec.inv_of_beforeLength {d : Dec}
    (hstate : d.state = .awaitPreamble1 ∨ d.state = .awaitPreamble2 ∨ d.state = .awaitPreamble3 ∨ d.state = .awaitLength)
    (hzero : d.len = 0 ∧ d.cmd = 0 ∧ d.cnt = 0 ∧ d.acc = 0) (hbuf : d.buf.wf = true) : d.Inv where
  countBounded := by simp [hzero]
  beforeLength _ := hzero
  beforeCommand h := by simp [h] at hstate
  inPayload h := by simp [h] at hstate
  written := by simp [hzero]
  canonical := hbuf

theorem Dec.AtReset.inv {d : Dec} (h : d.AtReset) (hbuf : d.buf.wf = true) : d.Inv :=
  inv_of_beforeLength (.inl h.1) h.2 hbuf

theorem Dec.resync_inv {d : Dec} (hbuf : d.buf.wf = true) : d.resync.Inv :=
  AtReset.inv ⟨rfl, rfl, rfl, rfl, rfl⟩ hbuf

theorem Dec.powerOn_inv (d : Dec) : d.powerOn.Inv :=
  AtReset.inv ⟨rfl, rfl, rfl, rfl, rfl⟩ rfl

/-- The length byte, folded into an accumulator that was 0, makes `DEC.acc` the length (R27 item 3). -/
theorem Dec.Inv.storeLength {d : Dec} (h : d.Inv) {b : Byte} (hstate : d.state = .awaitLength) (hb : b.toNat ≤ maxPayload) :
    (transitionDec d (.decLenOk b)).Inv := by
  obtain ⟨-, hcmd, hcnt, hacc⟩ := h.beforeLength (by simp [hstate])
  exact {
    countBounded := by simp [transitionDec, hcnt]
    beforeLength := by simp [transitionDec]
    beforeCommand := by simp [transitionDec, hcnt, hcmd, hacc, countOf_val hb]
    inPayload := by simp [transitionDec]
    written := by simp [transitionDec, hcnt]
    canonical := h.canonical }

/-- The command byte starts R27's item 4 with none of the buffer's bytes. -/
theorem Dec.Inv.storeCommand {d : Dec} (h : d.Inv) (b : Byte) (hstate : d.state = .awaitCommand) :
    (transitionDec d (.decCmd b)).Inv := by
  obtain ⟨hcnt, -, hacc⟩ := h.beforeCommand hstate
  exact {
    countBounded := by simp [transitionDec, hcnt]
    beforeLength := by simp [transitionDec]
    beforeCommand := by simp [transitionDec]
    inPayload := by simp [transitionDec, hcnt, hacc, bufPrefix]
    written := by simp [transitionDec, hcnt]
    canonical := h.canonical }

/-- A write just past the first `n` bytes of the buffer appends the byte written to them. -/
theorem Dec.bufPrefix_write_succ (d : Dec) (n : Nat) (v : Byte) :
    ({ d with buf := d.buf.write n v } : Dec).bufPrefix (n + 1) = d.bufPrefix n ++ [v] := by
  rw [bufPrefix_succ, bufByte_write_same, bufPrefix_congr fun i hi => bufByte_write_other d v (Nat.ne_of_lt hi)]

/-- A payload byte is folded into `DEC.acc` and appended to the bytes counted at once, so item 4 of R27 stays. -/
theorem Dec.Inv.storePayload {d : Dec} (h : d.Inv) (b : Byte) (hstate : d.state = .awaitPayload) (hlt : d.cnt < d.len) :
    (transitionDec d (.decPayload b)).Inv := by
  have hmax : d.cnt.val + 1 ≤ maxPayload := Nat.le_of_lt_succ (Nat.lt_of_le_of_lt hlt d.len.isLt)
  have hcnt : (countOf (d.cnt.val + 1)).val = d.cnt.val + 1 := countOf_val hmax
  have hprefix : (transitionDec d (.decPayload b)).bufPrefix (d.cnt.val + 1) = d.bufPrefix d.cnt ++ [b] :=
    bufPrefix_write_succ d d.cnt b
  exact {
    countBounded := by simp only [transitionDec, Fin.le_def, hcnt, fold_len]; exact hlt
    beforeLength := by simp [transitionDec, hstate]
    beforeCommand := by simp [transitionDec, hstate]
    inPayload := fun _ => calc
      d.acc ^^^ b = BitVec.ofNat 8 d.len ^^^ d.cmd ^^^ xorAll (d.bufPrefix d.cnt) ^^^ b := by rw [h.inPayload hstate]
      _ = BitVec.ofNat 8 d.len ^^^ d.cmd ^^^ xorAll (d.bufPrefix d.cnt ++ [b]) := by
        simp [xorAll_append, BitVec.xor_assoc]
      _ = _ := by rw [← hprefix, ← hcnt]; rfl
    written := by
      intro i hi
      simp only [transitionDec, hcnt] at hi ⊢
      by_cases hlast : i = d.cnt.val
      · exact ⟨b, by rw [hlast, Memory.read_write_same]⟩
      · rw [Memory.read_write_other _ _ hlast]
        exact h.written i (by omega)
    canonical := Memory.wf_write _ _ h.canonical (by omega) }

/-! ### The decoder's invariant, move by move -/

/-- A row taken where its condition holds keeps the invariant. -/
theorem transitionDec_inv {d : Dec} (h : d.Inv) {i : Instr} (hsel : i.selected d.key = true) :
    (transitionDec d i).Inv := by
  cases i with
  | encCmd _ | encPayload _ _ | decStep | decIdle => exact h
  | decP1Match | decP2Match | decP3Match =>
    have hstate := of_decide_eq_true hsel
    rw [Dec.key_state] at hstate
    exact Dec.inv_of_beforeLength (by simp [transitionDec]) (h.beforeLength (by simp [hstate])) h.canonical
  | decP1Miss _ | decP2Miss _ | decP3Miss _ | decLenOver _ | decCsumOk _ | decCsumBad _ =>
    exact Dec.resync_inv h.canonical
  | decLenOk b =>
    obtain ⟨hstate, hb⟩ := of_decide_eq_true hsel
    exact h.storeLength hstate hb
  | decCmd b => exact h.storeCommand b (of_decide_eq_true hsel)
  | decPayload b =>
    obtain ⟨hstate, hlt⟩ := (payloadDue_iff d.key).1 hsel
    exact h.storePayload b hstate hlt

/-- What a transition leaves: its row was selected, `DEC` and the answer are the row's, and the rest is as it was. -/
theorem exec_transition_eq_next {i : Instr} (hi : isTransition i = true) {s t : State} :
    exec i s = .next t ↔ i.selected s.dec.key = true ∧
      t = ({ s with dec := transitionDec s.dec i } : State).answer (transitionResult s.dec i) := by
  rw [exec_transition hi, State.takeRow_eq_next]

/-- The step against the transport is a transition from the state with the polled byte taken off (R137). -/
theorem decStep_is_transition {s t : State} (h : exec .decStep s = .next t) :
    ∃ i, isTransition i = true ∧ exec i { s with rx := s.rx.tail } = .next t := by
  cases hrx : s.rx with
  | nil =>
    rw [execDecStep_nil hrx] at h
    exact ⟨_, selectRow_isTransition _ _, by rw [← h, List.tail_nil, ← hrx]⟩
  | cons b rest => exact ⟨_, selectRow_isTransition _ _, (execDecStep_cons hrx).symm.trans h⟩

theorem exec_transition_inv {i : Instr} (hi : isTransition i = true) {s t : State} (hinv : s.dec.Inv)
    (h : exec i s = .next t) : t.dec.Inv := by
  obtain ⟨hsel, rfl⟩ := (exec_transition_eq_next hi).1 h
  simpa using transitionDec_inv hinv hsel

theorem decStep_inv {s t : State} (hinv : s.dec.Inv) (h : exec .decStep s = .next t) : t.dec.Inv := by
  obtain ⟨i, hi, h⟩ := decStep_is_transition h
  exact exec_transition_inv (s := { s with rx := s.rx.tail }) hi hinv h

/-! ### What each agent may change -/

theorem txStep_shape {p : HostParams} {n : Nat} {s t : State} (h : txStep p n s = .next t) :
    t = { s with tx := t.tx, req := t.req, txPos := t.txPos } := by
  obtain ⟨req, pos, rfl | ⟨cmd, payload, -, rfl⟩⟩ := txStep_cases h <;> rfl

theorem rxStep_shape {p : HostParams} {s t : State} (h : rxStep p s = .next t) :
    t = { s with dec := t.dec, rx := t.rx, result := t.result, delivered := t.delivered, snapshot := t.snapshot,
                 rxPos := t.rxPos } := by
  obtain ⟨-, -, ht⟩ | ⟨u, pos, hu, rfl⟩ := rxStep_cases h
  · rw [ht]
  · rw [decStep_shape hu]

/-- A call that is neither start nor the getter is its field writes. -/
theorem callSurface_writes {c : Call} (hstart : c ≠ .start) (hget : c ≠ .getTelemetry) (p : HostParams) (s : State) :
    callSurface p c s = .next (s.beginWrites (callWrites p c)) := by
  cases c with
  | start => exact absurd rfl hstart
  | getTelemetry => exact absurd rfl hget
  | _ => rfl

/-- Start moves `DEC` to its reset state and the two threads to their first positions (R184). -/
theorem startLoops_next {s t : State} (h : startLoops s = .next t) :
    t = { s with dec := s.dec.powerOn, txPos := .tick .command, rxPos := .poll } := by
  unfold startLoops at h
  split at h
  · cases h; rfl
  · cases h

/-- A call other than start writes the shared records, or adds to what the getter has returned. -/
theorem callSurface_cases {p : HostParams} {c : Call} (hstart : c ≠ .start) {s t : State} (h : callSurface p c s = .next t) :
    ∃ ctl req calls more, t = { s with ctl := ctl, req := req, calls := calls, reads := s.reads ++ more } := by
  by_cases hget : c = .getTelemetry
  · subst hget
    cases h
    exact ⟨s.ctl, s.req, s.calls, [s.telemetry], rfl⟩
  · rw [callSurface_writes hstart hget] at h
    cases h
    obtain ⟨ctl, req, calls, hw⟩ := beginWrites_shape (callWrites p c) s
    exact ⟨ctl, req, calls, [], by rw [hw, List.append_nil]⟩

/-- One entry of the schedule keeps the decoder's invariant. -/
theorem runEvent_inv {p : HostParams} {e : Event} {s t : State} (hinv : s.dec.Inv) (h : runEvent p e s = .next t) :
    t.dec.Inv := by
  cases e with
  | arrive b => cases h; exact hinv
  | invoke op =>
    obtain ⟨cmd, payload, -, rfl⟩ | ⟨i, hi | rfl, -, hx⟩ := invoke_cases h
    · exact hinv
    · exact exec_transition_inv hi hinv hx
    · exact decStep_inv hinv hx
  | txStep n => rw [txStep_shape h]; exact hinv
  | rxStep =>
    obtain ⟨hdec, -, -⟩ | ⟨u, pos, hu, rfl⟩ := rxStep_cases h
    · rw [hdec]; exact hinv
    · exact decStep_inv (t := u) hinv hu
  | call c =>
    by_cases hc : c = .start
    · subst hc
      rw [startLoops_next h]
      exact Dec.powerOn_inv _
    · obtain ⟨ctl, req, calls, more, rfl⟩ := callSurface_cases hc h
      exact hinv
  | caller k =>
    cases h
    obtain ⟨ctl, req, calls, hk⟩ := callerStep_shape k s
    rw [hk]; exact hinv
  | reset => cases h; exact Dec.powerOn_inv _
  | shutdown => cases h; exact hinv

/-- Settles O36, from `runEvent_inv`: each row keeps the invariant where it is selected, no agent but a decoder step touches `DEC`,
and start and reset put it in the reset state. -/
theorem everyStepKeepsTheDecoderInvariant : Obligations.EveryStepKeepsTheDecoderInvariant := by
  intro s t hinv h
  obtain rfl | ⟨e, rest, -, h⟩ := step_cases h
  · exact hinv
  · exact runEvent_inv (s := { s with schedule := rest }) hinv h

/-- Settles O33, from the shape of each agent's moves. -/
theorem agentsKeepToTheirOwnState : Obligations.AgentsKeepToTheirOwnState := by
  intro p s t
  refine ⟨fun n h => txStep_shape h, fun h => rxStep_shape h, fun c hc h => ?_, fun k h => ?_⟩
  · obtain ⟨ctl, req, calls, more, rfl⟩ := callSurface_cases hc h
    rfl
  · cases h
    obtain ⟨ctl, req, calls, hk⟩ := callerStep_shape k s
    rw [hk]

/-! ### Output only grows -/

/-- What has been written, handed up and read in the first state is a beginning of the same in the second (R34). -/
def OutputGrows (s t : State) : Prop :=
  s.tx <+: t.tx ∧ s.delivered <+: t.delivered ∧ s.reads <+: t.reads

theorem OutputGrows.refl (s : State) : OutputGrows s s :=
  ⟨List.prefix_rfl, List.prefix_rfl, List.prefix_rfl⟩

theorem State.answer_delivered_prefix (r : DecResult) (s : State) : s.delivered <+: (s.answer r).delivered := by
  cases r with
  | noFrame => exact List.prefix_rfl
  | frame f => exact List.prefix_append _ _

theorem exec_transition_outputGrows {i : Instr} (hi : isTransition i = true) {s t : State} (h : exec i s = .next t) :
    OutputGrows s t := by
  obtain ⟨-, rfl⟩ := (exec_transition_eq_next hi).1 h
  exact ⟨by simp, State.answer_delivered_prefix _ { s with dec := transitionDec s.dec i }, by simp⟩

theorem decStep_outputGrows {s t : State} (h : exec .decStep s = .next t) : OutputGrows s t := by
  obtain ⟨i, hi, h⟩ := decStep_is_transition h
  exact exec_transition_outputGrows (s := { s with rx := s.rx.tail }) hi h

/-- One entry of the schedule takes back no output. -/
theorem runEvent_outputGrows {p : HostParams} {e : Event} {s t : State} (h : runEvent p e s = .next t) : OutputGrows s t := by
  cases e with
  | arrive b => cases h; exact .refl s
  | invoke op =>
    obtain ⟨cmd, payload, -, rfl⟩ | ⟨i, hi | rfl, -, hx⟩ := invoke_cases h
    · exact ⟨List.prefix_append _ _, List.prefix_rfl, List.prefix_rfl⟩
    · exact exec_transition_outputGrows hi hx
    · exact decStep_outputGrows hx
  | txStep n =>
    obtain ⟨req, pos, rfl | ⟨cmd, payload, -, rfl⟩⟩ := txStep_cases h
    · exact .refl s
    · exact ⟨List.prefix_append _ _, List.prefix_rfl, List.prefix_rfl⟩
  | rxStep =>
    obtain ⟨-, -, ht⟩ | ⟨u, pos, hu, rfl⟩ := rxStep_cases h
    · rw [ht]; exact .refl s
    · exact decStep_outputGrows (t := u) hu
  | call c =>
    by_cases hc : c = .start
    · subst hc
      rw [startLoops_next h]
      exact .refl s
    · obtain ⟨ctl, req, calls, more, rfl⟩ := callSurface_cases hc h
      exact ⟨List.prefix_rfl, List.prefix_rfl, List.prefix_append _ _⟩
  | caller k =>
    cases h
    obtain ⟨ctl, req, calls, hk⟩ := callerStep_shape k s
    rw [hk]; exact .refl s
  | reset => cases h; exact .refl s
  | shutdown => cases h; exact .refl s

/-- Settles O34, from `runEvent_outputGrows`. -/
theorem stepsNeverRecallOutput : Obligations.StepsNeverRecallOutput := by
  intro s t h
  obtain rfl | ⟨e, rest, -, h⟩ := step_cases h
  · exact OutputGrows.refl t
  · exact runEvent_outputGrows (s := { s with schedule := rest }) h

/-! ### Reset and the states reached from it -/

theorem Dec.reset_atReset : Dec.reset.AtReset := ⟨rfl, rfl, rfl, rfl, rfl⟩

theorem Dec.reset_inv : Dec.reset.Inv := reset_atReset.inv State.reset_buf_wf

/-- A run of one step more that does not stop is a step and then a run. -/
theorem run_succ_next {M : Host.Core} {n : Nat} {s t : M.State} (h : M.run (n + 1) s = .next t) :
    ∃ u, M.step s = .next u ∧ M.run n u = .next t := by
  rw [Host.Core.run] at h
  split at h
  · next u hu => exact ⟨u, hu, h⟩
  · cases h
  · cases h

/-- What every step keeps holds wherever a run leads. -/
theorem run_keeps {P : State → Prop} (hstep : ∀ s t, P s → step s = .next t → P t) {n : Nat} {s t : State} (hs : P s)
    (h : Host.Core.run Sys2Proof.core n s = .next t) : P t := by
  induction n generalizing s with
  | zero => cases h; exact hs
  | succ n ih =>
    obtain ⟨u, hu, h⟩ := run_succ_next h
    exact ih (hstep s u hs hu) h

/-- Settles O35: the invariant of O36 holds at reset, and so along every run. -/
theorem decoderInvariantInEveryReachableState : Obligations.DecoderInvariantInEveryReachableState := by
  intro events n t h
  have hinv : t.dec.Inv := run_keeps (P := fun s => s.dec.Inv) everyStepKeepsTheDecoderInvariant Dec.reset_inv h
  exact ⟨hinv.countBounded, Nat.le_of_lt_succ t.dec.len.isLt, hinv.beforeLength, hinv.beforeCommand, hinv.inPayload⟩

/-- The empty stream is the concatenation of no frames. -/
theorem wholeFrames_nil : WholeFrames [] := ⟨[], by simp, rfl⟩

theorem reset_flowClamped : FlowClamped State.reset := by
  simp [FlowClamped, FlowOk, State.reset, ControlInputs.neutral]

/-- Settles O39: `DEC` is in the reset state, nothing has been sent, and no call is unfinished. -/
theorem invariantsHoldAtReset : Obligations.InvariantsHoldAtReset :=
  ⟨Dec.reset_inv, wholeFrames_nil, reset_flowClamped⟩

theorem PendingRequests.none_get (f : ReqFlag) : PendingRequests.none.get f = false := by
  cases f <;> rfl

/-- Settles O41, field by field of `State.reset`. -/
theorem stateAfterReset : Obligations.StateAfterReset :=
  ⟨Dec.reset_atReset, fun _ => rfl, rfl, PendingRequests.none_get, rfl, rfl, rfl⟩

end Sys2Proof.Machine
end

section
/-! PROOFS. Family 20_memory: the outbound stream holds whole frames (R60), the inbound stream is consumed in order (R56, R58, R61),
and the two halves of the block, and the machine's steps, touch what is theirs alone (R62). -/

namespace Sys2Proof.Machine

/-! ### The outbound stream -/

theorem WholeFrames.append {tx payload : List Byte} {cmd : Byte} (h : WholeFrames tx) (hp : payload.length ≤ maxPayload) :
    WholeFrames (tx ++ encodeFrame cmd payload) := by
  obtain ⟨reqs, hreqs, rfl⟩ := h
  refine ⟨reqs ++ [(cmd, payload)], fun r hr => ?_, by simp⟩
  obtain hr | hr := List.mem_append.1 hr
  · exact hreqs r hr
  · rw [List.mem_singleton.1 hr]; exact hp

/-- A transition changes `DEC` and the results alone. -/
theorem exec_transition_shape {i : Instr} (hi : isTransition i = true) {s t : State} (h : exec i s = .next t) :
    t = { s with dec := t.dec, result := t.result, delivered := t.delivered } := by
  obtain ⟨-, rfl⟩ := (exec_transition_eq_next hi).1 h
  cases transitionResult s.dec i <;> rfl

/-- One entry of the schedule writes nothing, or one whole frame (R60, R106): only an encode operation writes. -/
theorem runEvent_tx {p : HostParams} {e : Event} {s t : State} (h : runEvent p e s = .next t) :
    t.tx = s.tx ∨ ∃ cmd payload, payload.length ≤ maxPayload ∧ t.tx = s.tx ++ encodeFrame cmd payload := by
  cases e with
  | arrive b => cases h; exact .inl rfl
  | invoke op =>
    obtain ⟨cmd, payload, hp, rfl⟩ | ⟨i, hi | rfl, -, hx⟩ := invoke_cases h
    · exact .inr ⟨cmd, payload, hp, rfl⟩
    · exact .inl (by rw [exec_transition_shape hi hx])
    · exact .inl (by rw [decStep_shape hx])
  | txStep n =>
    obtain ⟨req, pos, rfl | ⟨cmd, payload, hp, rfl⟩⟩ := txStep_cases h
    · exact .inl rfl
    · exact .inr ⟨cmd, payload, hp, rfl⟩
  | rxStep => exact .inl (by rw [rxStep_shape h])
  | call c =>
    by_cases hc : c = .start
    · subst hc
      exact .inl (by rw [startLoops_next h])
    · obtain ⟨ctl, req, calls, more, rfl⟩ := callSurface_cases hc h
      exact .inl rfl
  | caller k =>
    cases h
    obtain ⟨ctl, req, calls, hk⟩ := callerStep_shape k s
    exact .inl (by rw [hk])
  | reset => cases h; exact .inl rfl
  | shutdown => cases h; exact .inl rfl

/-- Settles O37, from `runEvent_tx`: what a step adds to the stream is one whole frame or nothing. -/
theorem everyStepKeepsWholeFrames : Obligations.EveryStepKeepsWholeFrames := by
  intro s t hs h
  obtain rfl | ⟨e, rest, -, h⟩ := step_cases h
  · exact hs
  · obtain ht | ⟨cmd, payload, hp, ht⟩ := runEvent_tx h
    · rw [ht]; exact hs
    · rw [ht]; exact hs.append hp

/-! ### The decoder beside the rest of the state (R62, R108) -/

/-- An update that leaves `DEC` alone, and of which neither a new `DEC` nor an answer takes notice. -/
structure BesideDecoder (g : State → State) : Prop where
  dec (s : State) : (g s).dec = s.dec
  answer (s : State) (d : Dec) (r : DecResult) :
    ({ g s with dec := d } : State).answer r = g (({ s with dec := d } : State).answer r)

/-- A transition may be taken before or after an update beside the decoder. -/
theorem BesideDecoder.exec_transition {g : State → State} (hg : BesideDecoder g) {i : Instr} (hi : isTransition i = true)
    (s : State) : exec i (g s) = andThen (exec i s) fun t => .next (g t) := by
  rw [Machine.exec_transition hi, Machine.exec_transition hi, hg.dec]
  cases hsel : i.selected s.dec.key with
  | true =>
    rw [State.takeRow_selected hsel, State.takeRow_selected (by rw [hg.dec]; exact hsel), andThen_next, hg.answer]
  | false =>
    rw [State.takeRow_unselected hsel, State.takeRow_unselected (by rw [hg.dec]; exact hsel), andThen_refused]

/-- The inbound stream replaced. -/
def State.withRx (rx : List Byte) (s : State) : State :=
  { s with rx := rx }

/-- Where the update leaves the inbound stream alone too, the same holds of the step against the transport. -/
theorem BesideDecoder.exec_decStep {g : State → State} (hg : BesideDecoder g) (hrx : ∀ s, (g s).rx = s.rx)
    (hset : ∀ s rx, (g s).withRx rx = g (s.withRx rx)) (s : State) :
    exec .decStep (g s) = andThen (exec .decStep s) fun t => .next (g t) := by
  cases h : s.rx with
  | nil =>
    rw [execDecStep_nil h, execDecStep_nil ((hrx s).trans h), hg.dec]
    exact hg.exec_transition (selectRow_isTransition _ _) s
  | cons b rest =>
    calc exec .decStep (g s)
        = exec (selectRow (g s).dec.key (some b)) ((g s).withRx rest) := execDecStep_cons ((hrx s).trans h)
      _ = exec (selectRow s.dec.key (some b)) (g (s.withRx rest)) := by rw [hg.dec, hset]
      _ = andThen (exec (selectRow s.dec.key (some b)) (s.withRx rest)) fun t => .next (g t) :=
        hg.exec_transition (selectRow_isTransition _ _) _
      _ = andThen (exec .decStep s) fun t => .next (g t) := by rw [execDecStep_cons h]; rfl

/-- A frame put on the outbound stream. -/
def State.send (frame : List Byte) (s : State) : State :=
  { s with tx := s.tx ++ frame }

/-- An encode request sends its frame (R101, R102). -/
theorem exec_encCmd_send (cmd : Byte) : exec (.encCmd cmd) = fun s => .next (s.send (encodeFrame cmd [])) :=
  funext (execEncCmd_eq cmd)

theorem exec_encPayload_send (cmd : Byte) {payload : List Byte} (h : payload.length ≤ 64) :
    exec (.encPayload cmd payload) = fun s => .next (s.send (encodeFrame cmd payload)) :=
  funext fun s => execEncPayload_eq cmd payload s h

theorem besideDecoder_send (frame : List Byte) : BesideDecoder (State.send frame) where
  dec _ := rfl
  answer _ _ r := by cases r <;> rfl

/-- A decoder operation may be done before or after a frame is sent. -/
theorem exec_send {i : Instr} (hi : isTransition i = true ∨ i = .decStep) (frame : List Byte) (s : State) :
    exec i (s.send frame) = andThen (exec i s) fun t => .next (t.send frame) := by
  obtain hi | rfl := hi
  · exact (besideDecoder_send frame).exec_transition hi s
  · exact (besideDecoder_send frame).exec_decStep (fun _ => rfl) (fun _ _ => rfl) s

/-- Settles O32: an encode operation sends a frame, which is an update beside the decoder. -/
theorem encoderAndDecoderCommute : Obligations.EncoderAndDecoderCommute := by
  intro cmd payload i s hp hi
  rw [exec_encPayload_send cmd hp, exec_encCmd_send cmd]
  exact ⟨exec_send hi _ s, exec_send hi _ s⟩

/-! ### The schedule beside what its entries do -/

/-- The schedule replaced. -/
def State.reschedule (events : List Event) (s : State) : State :=
  { s with schedule := events }

@[simp] theorem State.reschedule_dec (events : List Event) (s : State) : (s.reschedule events).dec = s.dec := rfl
@[simp] theorem State.reschedule_req (events : List Event) (s : State) : (s.reschedule events).req = s.req := rfl
@[simp] theorem State.reschedule_shutdown (events : List Event) (s : State) : (s.reschedule events).shutdown = s.shutdown := rfl
@[simp] theorem State.reschedule_txPos (events : List Event) (s : State) : (s.reschedule events).txPos = s.txPos := rfl
@[simp] theorem State.reschedule_rxPos (events : List Event) (s : State) : (s.reschedule events).rxPos = s.rxPos := rfl
@[simp] theorem State.reschedule_calls (events : List Event) (s : State) : (s.reschedule events).calls = s.calls := rfl

theorem besideDecoder_reschedule (events : List Event) : BesideDecoder (State.reschedule events) where
  dec _ := rfl
  answer _ _ r := by cases r <;> rfl

/-- No operation of the block reads or writes the schedule. -/
theorem exec_reschedule (i : Instr) (events : List Event) (s : State) :
    exec i (s.reschedule events) = andThen (exec i s) fun t => .next (t.reschedule events) := by
  cases i with
  | encCmd cmd => rfl
  | encPayload cmd payload =>
    by_cases hp : payload.length ≤ 64
    · rw [exec_encPayload_send cmd hp]; rfl
    · simp [exec, execEncPayload, payloadFits, hp]
  | decStep => exact (besideDecoder_reschedule events).exec_decStep (fun _ => rfl) (fun _ _ => rfl) s
  | _ => exact (besideDecoder_reschedule events).exec_transition rfl s

theorem invokeBlock_reschedule (op : Invocation) (events : List Event) (s : State) :
    invokeBlock op (s.reschedule events) = andThen (invokeBlock op s) fun t => .next (t.reschedule events) := by
  have howned : (s.reschedule events).owned op = s.owned op := by cases op <;> rfl
  unfold invokeBlock
  rw [howned, State.reschedule_dec]
  by_cases ho : s.owned op = true
  · rw [if_pos ho, if_pos ho, andThen_refused]
  · rw [if_neg ho, if_neg ho]
    cases decode s.dec.key op with
    | ok i => exact exec_reschedule i events s
    | error _ => rfl

theorem txIssue_reschedule (i : Instr) (pos : TxPos) (events : List Event) (s : State) :
    txIssue i pos (s.reschedule events) = andThen (txIssue i pos s) fun t => .next (t.reschedule events) := by
  unfold txIssue
  rw [exec_reschedule]
  cases exec i s <;> rfl

theorem txStep_reschedule (p : HostParams) (n : Nat) (events : List Event) (s : State) :
    txStep p n (s.reschedule events) = andThen (txStep p n s) fun t => .next (t.reschedule events) := by
  unfold txStep
  rw [State.reschedule_txPos]
  cases s.txPos with
  | test f =>
    by_cases hset : s.req.get f = true
    · simp only [State.reschedule_req, hset, if_true]
      split <;> rfl
    · simp only [State.reschedule_req, hset]
      rfl
  | emit f cleared => exact txIssue_reschedule _ _ events s
  | read todo got => cases todo <;> rfl
  | compose got =>
    dsimp only
    split
    · exact txIssue_reschedule _ _ events s
    · rfl
  | request => exact txIssue_reschedule _ _ events s
  | _ => rfl

theorem handleResult_reschedule (p : HostParams) (r : DecResult) (events : List Event) (s : State) :
    (s.reschedule events).handleResult p r = (s.handleResult p r).reschedule events := by
  cases r with
  | noFrame => rfl
  | frame f => simp only [State.handleResult]; split <;> rfl

theorem rxStep_reschedule (p : HostParams) (events : List Event) (s : State) :
    rxStep p (s.reschedule events) = andThen (rxStep p s) fun t => .next (t.reschedule events) := by
  unfold rxStep
  rw [State.reschedule_rxPos]
  cases s.rxPos with
  | stopped => rfl
  | poll =>
    by_cases hdown : s.shutdown = true
    · simp only [State.reschedule_shutdown, hdown, if_true]
      rfl
    · simp only [State.reschedule_shutdown, hdown, exec_reschedule]
      cases exec .decStep s <;> rfl
  | handle r => simp only [handleResult_reschedule]; rfl

theorem write_reschedule (w : FieldWrite) (events : List Event) (s : State) :
    (s.reschedule events).write w = (s.write w).reschedule events := by
  cases w <;> rfl

theorem beginWrites_reschedule (ws : List FieldWrite) (events : List Event) (s : State) :
    (s.reschedule events).beginWrites ws = (s.beginWrites ws).reschedule events := by
  unfold State.beginWrites
  split
  · rfl
  · exact write_reschedule _ events s
  · rw [write_reschedule]; rfl

theorem callerStep_reschedule (k : Nat) (events : List Event) (s : State) :
    (s.reschedule events).callerStep k = (s.callerStep k).reschedule events := by
  unfold State.callerStep
  rw [State.reschedule_calls]
  split
  · rfl
  · rfl
  · rw [write_reschedule]; rfl
  · rw [write_reschedule]; rfl

theorem startLoops_reschedule (events : List Event) (s : State) :
    startLoops (s.reschedule events) = andThen (startLoops s) fun t => .next (t.reschedule events) := by
  by_cases hstopped : s.txPos = .stopped ∧ s.rxPos = .stopped
  · simp [startLoops, hstopped, State.reschedule]
  · simp [startLoops, hstopped]

theorem callSurface_reschedule (p : HostParams) (c : Call) (events : List Event) (s : State) :
    callSurface p c (s.reschedule events) = andThen (callSurface p c s) fun t => .next (t.reschedule events) := by
  by_cases hstart : c = .start
  · subst hstart
    exact startLoops_reschedule events s
  by_cases hget : c = .getTelemetry
  · subst hget; rfl
  · rw [callSurface_writes hstart hget, callSurface_writes hstart hget, beginWrites_reschedule, andThen_next]

/-- What an entry of the schedule does, it does whatever is scheduled after it, and leaves that as it is. -/
theorem runEvent_reschedule (p : HostParams) (e : Event) (events : List Event) (s : State) :
    runEvent p e (s.reschedule events) = andThen (runEvent p e s) fun t => .next (t.reschedule events) := by
  cases e with
  | arrive b => rfl
  | invoke op => exact invokeBlock_reschedule op events s
  | txStep n => exact txStep_reschedule p n events s
  | rxStep => exact rxStep_reschedule p events s
  | call c => exact callSurface_reschedule p c events s
  | caller k => exact congrArg _ (callerStep_reschedule k events s)
  | reset => rfl
  | shutdown => rfl

theorem runEvent_next_reschedule {p : HostParams} {e : Event} {s t : State} (h : runEvent p e s = .next t)
    (events : List Event) : runEvent p e (s.reschedule events) = .next (t.reschedule events) := by
  rw [runEvent_reschedule, h, andThen_next]

theorem runEvent_keeps_schedule {p : HostParams} {e : Event} {s t : State} (h : runEvent p e s = .next t) :
    t.reschedule s.schedule = t :=
  Host.Outcome.next.inj ((runEvent_next_reschedule h s.schedule).symm.trans h)

theorem run_succ_of_next {M : Host.Core} {s u : M.State} (h : M.step s = .next u) (n : Nat) :
    M.run (n + 1) s = M.run n u := by
  rw [Host.Core.run, h]

/-- Settles O46, by induction on the events: a step takes the next one off the schedule, and the rest does not matter to it. -/
theorem runIsItsScheduledEvents : Obligations.RunIsItsScheduledEvents := by
  intro events rest s t h
  induction events generalizing s with
  | nil => exact h
  | cons e es ih =>
    obtain ⟨u, hu, h⟩ := andThen_eq_next.1 h
    have hstep : step (s.reschedule (e :: es ++ rest)) = .next (u.reschedule (es ++ rest)) := by
      rw [step_event (s := s.reschedule (e :: es ++ rest)) rfl]
      exact runEvent_next_reschedule hu (es ++ rest)
    have hrest : u.reschedule rest = u := runEvent_keeps_schedule hu
    rw [← hrest] at h
    calc Host.Core.run Sys2Proof.core (es.length + 1) (s.reschedule (e :: es ++ rest))
        = Host.Core.run Sys2Proof.core es.length (u.reschedule (es ++ rest)) :=
          run_succ_of_next (M := Sys2Proof.core) (s := s.reschedule (e :: es ++ rest)) hstep es.length
      _ = .next t := ih u h

/-! ### The inbound stream -/

theorem besideDecoder_withRx (rx : List Byte) : BesideDecoder (State.withRx rx) where
  dec _ := rfl
  answer _ _ r := by cases r <;> rfl

/-- Arriving bytes are appended in order, and nothing else happens (R58, R61). -/
theorem runEvents_arrive (p : HostParams) (bytes : List Byte) (s : State) :
    runEvents p (bytes.map .arrive) s = .next { s with rx := s.rx ++ bytes } := by
  induction bytes generalizing s with
  | nil => simp [runEvents]
  | cons b bs ih =>
    refine (ih (s.arrive b)).trans ?_
    simp [State.arrive]

theorem feed_cons_eq_some {x : Option Byte} {xs : List (Option Byte)} {s t : State} {rs : List DecResult}
    (h : feed (x :: xs) s = some (t, rs)) :
    ∃ u rs', exec (selectRow s.dec.key x) s = .next u ∧ feed xs u = some (t, rs') := by
  unfold feed at h
  split at h
  · next u hu =>
    obtain ⟨⟨t', rs'⟩, hf, hq⟩ := Option.map_eq_some_iff.1 h
    cases hq
    exact ⟨u, rs', hu, hf⟩
  · cases h

/-- Where no loop owns `DEC`, a poll is a decoder step. -/
theorem runEvent_poll (p : HostParams) {s : State} (h : s.rxPos = .stopped) :
    runEvent p (.invoke .poll) s = exec .decStep s := by
  simp [runEvent, invokeBlock, State.owned, decode, h]

/-- A poll takes the oldest waiting byte, and does with it what the decoder does when it is fed that byte (R56, R61, R137). -/
theorem runEvent_poll_cons (p : HostParams) {b : Byte} {rest rx : List Byte} {s u : State} (hs : s.rxPos = .stopped)
    (h : exec (selectRow s.dec.key (some b)) (s.withRx rest) = .next u) :
    runEvent p (.invoke .poll) (s.withRx (b :: rx)) = .next (u.withRx rx) := by
  rw [runEvent_poll p (s := s.withRx (b :: rx)) hs, execDecStep_cons rfl]
  refine ((besideDecoder_withRx rx).exec_transition (selectRow_isTransition _ _) (s.withRx rest)).trans ?_
  exact congrArg (andThen · _) h

/-- Polls take the waiting bytes in order, one each, and leave those behind them. -/
theorem runEvents_poll (p : HostParams) (bytes rest : List Byte) {s t : State} {rs : List DecResult} (hs : s.rxPos = .stopped)
    (h : feed (bytes.map some) (s.withRx rest) = some (t, rs)) :
    runEvents p (List.replicate bytes.length (.invoke .poll)) (s.withRx (bytes ++ rest)) = .next t := by
  induction bytes generalizing s rs with
  | nil => cases h; rfl
  | cons b bs ih =>
    obtain ⟨u, rs', hu, hfeed⟩ := feed_cons_eq_some h
    have hshape := exec_transition_shape (selectRow_isTransition _ _) hu
    have hpos : u.rxPos = .stopped := by rw [hshape]; exact hs
    have hrest : u.withRx rest = u := by rw [hshape]; rfl
    rw [← hrest] at hfeed
    rw [List.length_cons, List.replicate_succ, runEvents]
    exact andThen_eq_next.2 ⟨_, runEvent_poll_cons p hs hu, ih hpos hfeed⟩

/-- Settles O47, by induction on the bytes: each arrival appends one, and each poll takes the oldest. -/
theorem bytesAreConsumedInArrivalOrder : Obligations.BytesAreConsumedInArrivalOrder :=
  fun p bytes rest s _ _ => ⟨runEvents_arrive p bytes s, fun hs h => runEvents_poll p bytes rest hs h⟩

end Sys2Proof.Machine
end

section
/-! PROOFS. Family 30_encoding: words and operations determine each other (R84, R88), the decoder's rows partition the inputs of every
state (R84), and a word of the table runs as the operation that it stands for (R88, log 2). -/

namespace Sys2Proof.Machine

/-! ### An operation is read back from its word -/

/-- A row whose condition holds is the one that its word selects, so no two such rows share a word (R84). -/
theorem selectRow_of_selected {k : RowKey} {i : Instr} {input : Option Byte} (hsel : i.selected k = true)
    (hword : encode i = .rx input) : selectRow k input = i := by
  cases i with
  | encCmd _ | encPayload _ _ | decStep => cases hword
  | decIdle => cases hword; exact selectRow_none k
  | decP1Match =>
    cases hword
    rw [selectRow_awaitPreamble1 _ (of_decide_eq_true hsel), if_pos rfl]
  | decP1Miss b =>
    cases hword
    obtain ⟨hstate, hb⟩ := of_decide_eq_true hsel
    rw [selectRow_awaitPreamble1 _ hstate, if_neg hb]
  | decP2Match =>
    cases hword
    rw [selectRow_awaitPreamble2 _ (of_decide_eq_true hsel), if_pos rfl]
  | decP2Miss b =>
    cases hword
    obtain ⟨hstate, hb⟩ := of_decide_eq_true hsel
    rw [selectRow_awaitPreamble2 _ hstate, if_neg hb]
  | decP3Match =>
    cases hword
    rw [selectRow_awaitPreamble3 _ (of_decide_eq_true hsel), if_pos rfl]
  | decP3Miss b =>
    cases hword
    obtain ⟨hstate, hb⟩ := of_decide_eq_true hsel
    rw [selectRow_awaitPreamble3 _ hstate, if_neg hb]
  | decLenOk b =>
    cases hword
    obtain ⟨hstate, hb⟩ := of_decide_eq_true hsel
    rw [selectRow_awaitLength _ hstate, if_pos hb]
  | decLenOver b =>
    cases hword
    obtain ⟨hstate, hb⟩ := of_decide_eq_true hsel
    rw [selectRow_awaitLength _ hstate, if_neg (Nat.not_le_of_lt hb)]
  | decCmd b =>
    cases hword
    exact selectRow_awaitCommand b (of_decide_eq_true hsel)
  | decPayload b =>
    cases hword
    exact selectRow_payload b hsel
  | decCsumOk b =>
    cases hword
    obtain ⟨hdue, hb⟩ := (Bool.and_eq_true _ _).mp hsel
    rw [selectRow_checksum b hdue, if_pos (of_decide_eq_true hb)]
  | decCsumBad b =>
    cases hword
    obtain ⟨hdue, hb⟩ := (Bool.and_eq_true _ _).mp hsel
    rw [selectRow_checksum b hdue, if_neg (of_decide_eq_true hb)]

/-- Settles O2: a request is read back from its frame, and a row is the one that its word selects. -/
theorem decodeOfEncodeIsTheOperation : Obligations.DecodeOfEncodeIsTheOperation := by
  intro k i hwf hsel
  cases i with
  | encCmd cmd => exact decodeFrame_encodeFrame cmd [] (Nat.zero_le _)
  | encPayload cmd payload =>
    have hread := decodeFrame_encodeFrame cmd payload (of_decide_eq_true hwf)
    cases payload with
    | nil => exact hread
    | cons p ps => exact hread
  | decStep => rfl
  | _ => exact congrArg Except.ok (selectRow_of_selected hsel rfl)

/-- Settles O3: a frame that is read is the frame of what it asks for, and the row that an input selects has that input as its
word. -/
theorem encodeOfDecodeIsTheWord : Obligations.EncodeOfDecodeIsTheWord := by
  intro k op i hk h
  cases op with
  | enc frame =>
    obtain ⟨cmd, payload, hlen, rfl, rfl⟩ := decodeFrame_ok h
    exact requestOf_wf cmd payload hlen k
  | poll => cases h; exact ⟨rfl, rfl, rfl⟩
  | rx input =>
    cases h
    obtain ⟨hwf, hword⟩ := selectRow_encode (k := k) input
    exact ⟨hwf, selectRow_selected hk input, hword⟩

/-- Settles O4: the row is the one that the input selects. -/
theorem rowClassesPartitionEveryState : Obligations.RowClassesPartitionEveryState := by
  intro k input hk
  refine ⟨selectRow k input, ⟨selectRow_isTransition k input, selectRow_selected hk input, (selectRow_encode input).2⟩, ?_⟩
  intro j _ hsel hword
  exact (selectRow_of_selected hsel hword).symm

/-! ### Words written out -/

/-- Settles O1, from O2: each word but two is written out as some operation's. The third frame has a wrong checksum byte, and the
header is completed by computation. -/
theorem wordsDecodeToTheirOperations : Obligations.WordsDecodeToTheirOperations := by
  intro k
  have hread := decodeOfEncodeIsTheOperation k
  refine ⟨hread (.encCmd 0x69) rfl rfl, hread (.encPayload 0x10 [0xFF, 0xFF]) rfl rfl, rfl, hread .decStep rfl rfl,
    hread .decIdle rfl rfl, fun hstate => ?_, fun hstate => ?_, fun hstate => ?_, ?_⟩
  · exact hread .decP3Match rfl (decide_eq_true hstate)
  · exact hread (.decLenOk 0x40) rfl (decide_eq_true ⟨hstate, by decide⟩)
  · exact hread (.decLenOver 0x41) rfl (decide_eq_true ⟨hstate, by decide⟩)
  · decide

/-! ### Words of the table (log 2) -/

/-- Outside `AWAIT_PAYLOAD` the row depends on `DEC.state` and the input alone (R84). -/
theorem selectRow_congr {k k' : RowKey} (hstate : k.state = k'.state) (hpay : k'.state ≠ .awaitPayload)
    (input : Option Byte) : selectRow k input = selectRow k' input := by
  cases input with
  | none => rfl
  | some b =>
    unfold selectRow
    rw [hstate]
    cases h : k'.state with
    | awaitPayload => exact absurd h hpay
    | _ => rfl

theorem tableState_ne_awaitPayload (b : Byte) : tableState b ≠ .awaitPayload := by
  unfold tableState
  repeat' split
  all_goals decide

/-- A word of the table is `DEC_STEP`, a consumed byte in the state of its row, or an encode request. -/
theorem tableInvocation_cases (nbits w : Nat) :
    tableInvocation nbits w = (none, .poll) ∨
    (∃ b, tableInvocation nbits w = (some (tableState b), .rx (some b))) ∨
    ∃ frame, tableInvocation nbits w = (none, .enc frame) := by
  unfold tableInvocation
  split
  · split
    · exact .inl rfl
    · exact .inr (.inl ⟨_, rfl⟩)
    · exact .inr (.inr ⟨_, rfl⟩)
  · exact .inr (.inr ⟨_, rfl⟩)

/-- A word of the table reads alike in any two states of `DEC` that agree with the one its row names. -/
theorem decode_tableInvocation_congr {nbits w : Nat} {k k' : RowKey} (hk : ∀ fsm ∈ (tableInvocation nbits w).1, k.state = fsm)
    (hk' : ∀ fsm ∈ (tableInvocation nbits w).1, k'.state = fsm) :
    decode k (tableInvocation nbits w).2 = decode k' (tableInvocation nbits w).2 := by
  obtain hw | ⟨b, hw⟩ | ⟨frame, hw⟩ := tableInvocation_cases nbits w
  · rw [hw]; rfl
  · rw [hw] at hk hk' ⊢
    have hstate : k.state = tableState b := hk _ rfl
    have hstate' : k'.state = tableState b := hk' _ rfl
    exact congrArg Except.ok
      (selectRow_congr (hstate.trans hstate'.symm) (hstate' ▸ tableState_ne_awaitPayload b) (some b))
  · rw [hw]; rfl

/-- The operation that a table word stands for is what its invocation decodes to, in every state that its row admits. -/
theorem decode_of_decodeTableWord {nbits w : Nat} {i : Instr} (h : decodeTableWord nbits w = some i) {k : RowKey}
    (hk : ∀ fsm ∈ (tableInvocation nbits w).1, k.state = fsm) : decode k (tableInvocation nbits w).2 = .ok i := by
  simp only [decodeTableWord] at h
  split at h
  · next hd =>
    cases h
    rw [← hd]
    exact decode_tableInvocation_congr hk fun fsm hfsm => by rw [Option.mem_def.1 hfsm]; rfl
  · cases h

theorem State.owned_of_stopped {s : State} (htx : s.txPos = .stopped) (hrx : s.rxPos = .stopped) (op : Invocation) :
    s.owned op = false := by
  cases op with
  | enc _ => exact decide_eq_false (not_not_intro htx)
  | poll | rx _ => exact decide_eq_false (not_not_intro hrx)

/-- An invocation that no loop's ownership forbids is the operation that it decodes to. -/
theorem invokeBlock_of_decode {op : Invocation} {s : State} {i : Instr} (howned : s.owned op = false)
    (hd : decode s.dec.key op = .ok i) : invokeBlock op s = exec i s := by
  simp [invokeBlock, howned, hd]

/-- Settles O45: with both loops stopped the placed word is decoded in a state of its row, and the entry is taken off the
schedule. -/
theorem placedWordRunsNext : Obligations.PlacedWordRunsNext := by
  intro s nbits w i h
  refine ⟨(tableInvocation nbits w).1.getD s.dec.state, ?_⟩
  rw [step_event (s := s.withFetchWord nbits w) rfl]
  refine invokeBlock_of_decode (State.owned_of_stopped rfl rfl _) (decode_of_decodeTableWord h ?_)
  intro fsm hfsm
  exact congrArg (Option.getD · s.dec.state) (Option.mem_def.1 hfsm)

end Sys2Proof.Machine
end

section
/-! PROOFS. Family 40_encoder: what the encode operations append (R101 to R103), when they are refused (R105), and that their encodings
are exactly the well-formed frames (R74, R107, R111). -/

namespace Sys2Proof.Machine

/-! ### What the encode operations append -/

theorem encodeFrame_nil (cmd : Byte) : encodeFrame cmd [] = [0x24, 0x4D, 0x3C, 0x00, cmd, cmd] := by
  rw [encodeFrame, checksum_nil]
  rfl

/-- The XOR of a sequence (R10) taken from the left, as a running checksum takes it (R73). -/
theorem foldl_xor (bytes : List Byte) (b : Byte) : bytes.foldl (· ^^^ ·) b = b ^^^ xorAll bytes := by
  induction bytes generalizing b with
  | nil => exact BitVec.xor_zero.symm
  | cons x xs ih => rw [List.foldl_cons, ih, xorAll_cons, BitVec.xor_assoc]

theorem checksum_eq_foldl (cmd : Byte) (payload : List Byte) :
    checksum cmd payload = BitVec.ofNat 8 payload.length ^^^ cmd ^^^ payload.foldl (· ^^^ ·) 0 := by
  rw [checksum, foldl_xor]
  exact congrArg _ BitVec.zero_xor.symm

theorem exec_encPayload_tooLong (cmd : Byte) {payload : List Byte} (s : State) (h : 64 < payload.length) :
    exec (.encPayload cmd payload) s = .refused .payloadTooLong :=
  if_neg ((payloadFits_iff payload).not.2 (Nat.not_le_of_lt h))

/-- Settles O6: the frame of the empty payload, whose checksum is the command id. -/
theorem commandFrameIsAppended : Obligations.CommandFrameIsAppended := by
  intro cmd s
  rw [execEncCmd_eq, encodeFrame_nil]

/-- Settles O7: the frame's checksum is the XOR taken from the left. -/
theorem payloadFrameIsAppended : Obligations.PayloadFrameIsAppended := by
  intro cmd payload s h
  rw [execEncPayload_eq cmd payload s h, encodeFrame, checksum_eq_foldl]
  rfl

/-- Settles O8: such a payload does not fit. -/
theorem oversizePayloadIsRefused : Obligations.OversizePayloadIsRefused :=
  fun cmd _ s h => exec_encPayload_tooLong cmd s h

/-- Settles O9: both append the frame of the empty payload. -/
theorem emptyPayloadIsACommand : Obligations.EmptyPayloadIsACommand := fun cmd s =>
  (execEncPayload_eq cmd [] s (Nat.zero_le 64)).trans (execEncCmd_eq cmd s).symm

/-! ### Encodings and well-formed frames -/

/-- A payload's length is not cut by the length byte (R105). -/
theorem lengthByte_toNat {payload : List Byte} (h : payload.length ≤ 64) :
    (BitVec.ofNat 8 payload.length).toNat = payload.length := by
  rw [BitVec.toNat_ofNat]
  omega

/-- The encoder meets R74 item by item (R107). -/
theorem isFrame_encodeFrame (cmd : Byte) {payload : List Byte} (h : payload.length ≤ 64) :
    IsFrame (encodeFrame cmd payload) cmd (BitVec.ofNat 8 payload.length) payload := by
  have hpayload : payload = ((encodeFrame cmd payload).drop 5).take payload.length := by
    simp [encodeFrame]
  have hchecksum : (encodeFrame cmd payload)[5 + payload.length]? = some (checksum cmd payload) := by
    simp [encodeFrame, Nat.add_comm 5]
  unfold IsFrame
  rw [lengthByte_toNat h, encodeFrame_length]
  exact ⟨Nat.le_add_left .., rfl, rfl, rfl, rfl, rfl, h, rfl, hpayload, hchecksum⟩

/-- The length field of a well-formed frame is its payload's length (R74). -/
theorem IsFrame.payload_length {f : List Byte} {cmd n : Byte} {payload : List Byte} (h : IsFrame f cmd n payload) :
    payload.length = n.toNat ∧ payload.length ≤ 64 := by
  obtain ⟨-, -, -, -, -, -, hn, hlen, hpayload, -⟩ := h
  have : payload.length = n.toNat := by
    rw [hpayload, List.length_take, List.length_drop]
    omega
  exact ⟨this, this ▸ hn⟩

/-- R74's items fix the header, the payload and the last byte, so no two frames have the same content. -/
theorem IsFrame.eq_encodeFrame {f : List Byte} {cmd n : Byte} {payload : List Byte} (h : IsFrame f cmd n payload) :
    f = encodeFrame cmd payload := by
  have hn : BitVec.ofNat 8 payload.length = n := by rw [h.payload_length.1, BitVec.ofNat_toNat, BitVec.setWidth_eq]
  obtain ⟨-, h0, h1, h2, h3, h4, -, hlen, hpayload, hlast⟩ := h
  have hheader : f.take 5 = [params.pre1, params.pre2, params.pre3, n, cmd] := by
    simp [List.take_add_one, h0, h1, h2, h3, h4]
  have hchecksum : f.drop (5 + n.toNat) = [checksum cmd payload] := by
    have hend : f.drop (5 + n.toNat + 1) = [] := List.drop_eq_nil_of_le (by omega)
    rw [List.drop_eq_getElem?_toList_append, hlast, hend, checksum, hn]
    rfl
  calc f = f.take 5 ++ ((f.drop 5).take n.toNat ++ (f.drop 5).drop n.toNat) := by simp only [List.take_append_drop]
    _ = [params.pre1, params.pre2, params.pre3, n, cmd] ++ (payload ++ [checksum cmd payload]) := by
      rw [hheader, ← hpayload, List.drop_drop, hchecksum]
    _ = encodeFrame cmd payload := by rw [encodeFrame, hn, List.append_assoc]

/-- The header has the command id, and between header and checksum stands the payload (R107). -/
theorem encodeFrame_inj {cmd cmd' : Byte} {payload payload' : List Byte}
    (h : encodeFrame cmd payload = encodeFrame cmd' payload') : cmd = cmd' ∧ payload = payload' := by
  obtain ⟨hfront, -⟩ := List.append_inj' h rfl
  obtain ⟨hheader, hpayload⟩ := List.append_inj hfront rfl
  exact ⟨Option.some.inj (congrArg (·[4]?) hheader), hpayload⟩

/-- Settles O5: the encoder meets the items of R74, these fix every byte, and a frame's bytes at known places are its content. -/
theorem framesAreExactlyTheEncodings : Obligations.FramesAreExactlyTheEncodings :=
  ⟨fun cmd payload h => ⟨isFrame_encodeFrame cmd h, encodeFrame_length cmd payload⟩,
    fun _ _ _ _ h => ⟨h.eq_encodeFrame, h.payload_length⟩,
    fun _ _ _ _ _ _ h => encodeFrame_inj h⟩

end Sys2Proof.Machine
end

section
/-! PROOFS. Family 41_decoder: the decoder's transitions (R122 to R134), its step (R135, R137, R139), and what it makes of streams
of bytes (R141 to R147). The proofs about streams follow the bytes of the frame that `DEC` is in (`Dec.partialFrame`). -/

namespace Sys2Proof.Machine

/-! ### The transitions -/

/-- A row whose condition holds is the one that its word selects, and it is taken. -/
theorem row_taken {i : Instr} (hi : isTransition i = true) {s : State} (hsel : i.selected s.dec.key = true)
    {x : Option Byte} (hword : encode i = .rx x) :
    selectRow s.dec.key x = i ∧
      exec i s = .next (({ s with dec := transitionDec s.dec i } : State).answer (transitionResult s.dec i)) :=
  ⟨selectRow_of_selected hsel hword, (exec_transition_eq_next hi).2 ⟨hsel, rfl⟩⟩

/-- Settles O10: the row's condition holds in every state. -/
theorem idleStepChangesNothing : Obligations.IdleStepChangesNothing :=
  fun _ => row_taken (i := .decIdle) rfl rfl rfl

/-- Settles O11: each row's condition is its state. -/
theorem preambleMatchAdvances : Obligations.PreambleMatchAdvances :=
  fun _ => ⟨fun h => row_taken (i := .decP1Match) rfl (decide_eq_true h) rfl,
    fun h => row_taken (i := .decP2Match) rfl (decide_eq_true h) rfl,
    fun h => row_taken (i := .decP3Match) rfl (decide_eq_true h) rfl⟩

/-- Settles O12: each row's condition is its state and any byte but the expected one. -/
theorem preambleMismatchResyncs : Obligations.PreambleMismatchResyncs :=
  fun _ b => ⟨fun h hb => row_taken (i := .decP1Miss b) rfl (decide_eq_true ⟨h, hb⟩) rfl,
    fun h hb => row_taken (i := .decP2Miss b) rfl (decide_eq_true ⟨h, hb⟩) rfl,
    fun h hb => row_taken (i := .decP3Miss b) rfl (decide_eq_true ⟨h, hb⟩) rfl⟩

/-- Settles O13: a byte of at most 64 is a count of the same value. -/
theorem lengthByteIsStored : Obligations.LengthByteIsStored := by
  intro s b hstate hb
  obtain ⟨hrow, hexec⟩ := row_taken (i := .decLenOk b) (s := s) rfl (decide_eq_true ⟨hstate, hb⟩) rfl
  exact ⟨hrow, countOf b.toNat, countOf_val hb, hexec⟩

/-- Settles O14: the row's condition is its state and a byte above 64. -/
theorem oversizeLengthResyncs : Obligations.OversizeLengthResyncs :=
  fun _ b h hb => row_taken (i := .decLenOver b) rfl (decide_eq_true ⟨h, hb⟩) rfl

/-- Settles O15: the row's condition is its state. -/
theorem commandByteIsStored : Obligations.CommandByteIsStored :=
  fun _ b h => row_taken (i := .decCmd b) rfl (decide_eq_true h) rfl

/-- The count after a payload byte does not wrap: it is at most `DEC.len` (R25, R132). -/
theorem countOf_succ_val {d : Dec} (h : d.cnt < d.len) : (countOf (d.cnt + 1)).val = d.cnt.val + 1 :=
  countOf_val (Nat.le_of_lt_succ (Nat.lt_of_le_of_lt h d.len.isLt))

/-- Settles O16: the count does not wrap, and the write reads back at its own cell alone. -/
theorem payloadByteIsStored : Obligations.PayloadByteIsStored := by
  intro s b hstate hlt
  obtain ⟨hrow, hexec⟩ :=
    row_taken (i := .decPayload b) (s := s) rfl ((payloadDue_iff s.dec.key).2 ⟨hstate, hlt⟩) rfl
  exact ⟨hrow, s.dec.buf.write s.dec.cnt b, countOf (s.dec.cnt + 1), countOf_succ_val hlt, hexec,
    Memory.read_write_same .., fun i hi => Memory.read_write_other _ b hi⟩

theorem decCsumOk_selected {k : RowKey} {b : Byte} :
    (Instr.decCsumOk b).selected k = true ↔ checksumDue k = true ∧ b = k.acc := by
  simp [Instr.selected]

theorem decCsumBad_selected {k : RowKey} {b : Byte} :
    (Instr.decCsumBad b).selected k = true ↔ checksumDue k = true ∧ b ≠ k.acc := by
  simp [Instr.selected]

theorem Dec.bufPrefix_getElem? (d : Dec) {i n : Nat} (h : i < n) : (d.bufPrefix n)[i]? = some (d.bufByte i) := by
  simp [bufPrefix, h]

/-- Settles O17: the payload is the first `DEC.len` bytes of the buffer, and a cell that was written reads as its byte. -/
theorem matchingChecksumDelivers : Obligations.MatchingChecksumDelivers := by
  intro s hstate hcnt
  obtain ⟨hrow, hexec⟩ := row_taken (i := .decCsumOk s.dec.acc) (s := s) rfl
    (decCsumOk_selected.2 ⟨(checksumDue_iff s.dec.key).2 ⟨hstate, hcnt⟩, rfl⟩) rfl
  refine ⟨hrow, s.dec.bufPrefix s.dec.len, Dec.bufPrefix_length _ _, fun i v hi hv => ?_, hexec⟩
  rw [Dec.bufPrefix_getElem? _ hi, Dec.bufByte_of_read hv]

/-- Settles O18: the row's condition is that a checksum is due and that the byte differs from it. -/
theorem wrongChecksumIsDropped : Obligations.WrongChecksumIsDropped :=
  fun s b hstate hcnt hb => row_taken (i := .decCsumBad b) rfl
    (decCsumBad_selected.2 ⟨(checksumDue_iff s.dec.key).2 ⟨hstate, hcnt⟩, hb⟩) rfl

/-- Settles O19: each transition is a row, which is taken only where it is selected. -/
theorem unselectedTransitionIsRefused : Obligations.UnselectedTransitionIsRefused :=
  fun _ s hi hsel => (exec_transition hi s).trans (State.takeRow_unselected hsel _ _)

/-! ### The step against the transport -/

/-- Settles O20, from what the step does with an empty and with a non-empty inbound stream. -/
theorem decoderStepPollsOnce : Obligations.DecoderStepPollsOnce :=
  fun _ => ⟨execDecStep_nil, fun _ _ => execDecStep_cons⟩

/-- The step feeds the decoder the first inbound byte, if any, which is taken off the stream (R137). -/
theorem exec_decStep (s : State) :
    exec .decStep s = exec (selectRow s.dec.key s.rx.head?) { s with rx := s.rx.tail } := by
  cases hrx : s.rx with
  | nil => rw [execDecStep_nil hrx, List.head?_nil, List.tail_nil, ← hrx]
  | cons b rest => exact execDecStep_cons hrx

/-- Settles O21: the row that an input selects is taken, and changes `DEC` and the results alone. -/
theorem decoderStepAlwaysCompletes : Obligations.DecoderStepAlwaysCompletes := by
  intro s hcnt
  refine ⟨fun input => ⟨_, exec_selectRow hcnt input⟩, ?_⟩
  have hstep := (exec_decStep s).trans (exec_selectRow (s := { s with rx := s.rx.tail }) hcnt s.rx.head?)
  exact ⟨_, hstep, exec_transition_shape (selectRow_isTransition s.dec.key s.rx.head?) ((exec_decStep s).symm.trans hstep)⟩

/-- No transition but `DEC_CSUM_OK` answers a frame (R133, R135). -/
theorem transitionResult_cases (d : Dec) (i : Instr) :
    transitionResult d i = .noFrame ∨ ∃ b, i = .decCsumOk b ∧ transitionResult d i = .frame d.completed := by
  cases i with
  | decCsumOk b => exact .inr ⟨b, rfl, rfl⟩
  | _ => exact .inl rfl

/-- Settles O23: a frame comes from `DEC_CSUM_OK`, whose condition is that a checksum is due and is the byte consumed. -/
theorem onlyTheChecksumByteDelivers : Obligations.OnlyTheChecksumByteDelivers := by
  intro s t h
  rw [exec_decStep, exec_transition_eq_next (selectRow_isTransition _ _)] at h
  obtain ⟨hsel, rfl⟩ := h
  obtain hr | ⟨b, hi, hr⟩ := transitionResult_cases s.dec (selectRow s.dec.key s.rx.head?)
  · exact .inl (by simp [hr])
  · have hword : Invocation.rx (some b) = .rx s.rx.head? := by
      rw [← (selectRow_encode (k := s.dec.key) s.rx.head?).2, hi]
      rfl
    rw [hi, decCsumOk_selected, checksumDue_iff] at hsel
    obtain ⟨⟨hstate, hcnt⟩, rfl⟩ := hsel
    exact .inr ⟨s.dec.completed, by simp [hr], by simp [hr], hstate, hcnt, (Invocation.rx.inj hword).symm⟩

/-! ### Invocations of the block -/

/-- Settles O43: the entry is taken off the schedule, and the invocation is decoded with the same `DEC`. -/
theorem stepRunsTheDecodedOperation : Obligations.StepRunsTheDecodedOperation := by
  intro s op rest i hsched howned hd
  have howned' : ({ s with schedule := rest } : State).owned op = false := by cases op <;> exact howned
  rw [step_event hsched]
  exact invokeBlock_of_decode howned' hd

/-- A well-formed frame reads as the request that it stands for (R74, R107). -/
theorem IsFrame.decodeFrame_eq {f : List Byte} {cmd n : Byte} {payload : List Byte} (h : IsFrame f cmd n payload) :
    decodeFrame f = .ok (requestOf cmd payload) := by
  rw [h.eq_encodeFrame]
  exact decodeFrame_encodeFrame cmd payload h.payload_length.2

/-- Only an encode request whose word is no frame decodes to nothing. -/
theorem not_isFrame_of_decode_error {k : RowKey} {op : Invocation} {e : DecodeError} (h : decode k op = .error e) :
    ∃ f, op = .enc f ∧ ∀ cmd n payload, ¬ IsFrame f cmd n payload := by
  cases op with
  | enc f => exact ⟨f, rfl, fun cmd n payload hf => nomatch h.symm.trans hf.decodeFrame_eq⟩
  | poll | rx _ => cases h

/-- Where the counts are in order, what an invocation decodes to has a next state. -/
theorem exec_decoded_next {op : Invocation} {s : State} {i : Instr} (hcnt : s.dec.cnt ≤ s.dec.len)
    (h : decode s.dec.key op = .ok i) : ∃ t, exec i s = .next t := by
  obtain ⟨hrow, t, hstep, -⟩ := decoderStepAlwaysCompletes s hcnt
  cases op with
  | enc f =>
    obtain ⟨cmd, payload, hlen, rfl, -⟩ := decodeFrame_ok h
    cases payload with
    | nil => exact ⟨_, execEncCmd_eq cmd s⟩
    | cons p ps => exact ⟨_, execEncPayload_eq cmd (p :: ps) s hlen⟩
  | poll => cases h; exact ⟨t, hstep⟩
  | rx input => cases h; exact hrow input

/-- Settles O40: an invocation that is neither a second user's nor without a meaning has a next state. -/
theorem onlyTwoReasonsRefuseAnInvocation : Obligations.OnlyTwoReasonsRefuseAnInvocation := by
  intro p op s r hcnt h
  change invokeBlock op s = .refused r at h
  unfold invokeBlock at h
  split at h
  · next howned => cases h; exact .inl ⟨rfl, howned⟩
  · split at h
    · next i hd =>
      obtain ⟨t, ht⟩ := exec_decoded_next hcnt hd
      cases ht.symm.trans h
    · next e hd => cases h; exact .inr ⟨rfl, not_isFrame_of_decode_error hd⟩

/-! ### `DEC` under one input -/

/-- What an input makes of `DEC` (R84, R122 to R134). -/
def Dec.next (d : Dec) (x : Option Byte) : Dec := transitionDec d (selectRow d.key x)

/-- What the step answers to an input. -/
def Dec.answer (d : Dec) (x : Option Byte) : DecResult := transitionResult d (selectRow d.key x)

theorem Dec.next_of_selected {d : Dec} {i : Instr} {x : Option Byte} (hsel : i.selected d.key = true)
    (hword : encode i = .rx x) : d.next x = transitionDec d i := by
  rw [next, selectRow_of_selected hsel hword]

theorem Dec.answer_of_selected {d : Dec} {i : Instr} {x : Option Byte} (hsel : i.selected d.key = true)
    (hword : encode i = .rx x) : d.answer x = transitionResult d i := by
  rw [answer, selectRow_of_selected hsel hword]

theorem Dec.resync_atReset (d : Dec) : d.resync.AtReset := ⟨rfl, rfl, rfl, rfl, rfl⟩

/-- A row that resynchronises puts `DEC` in the reset state (R121). -/
theorem Dec.next_atReset {d : Dec} {i : Instr} {x : Option Byte} (hsel : i.selected d.key = true)
    (hword : encode i = .rx x) (hi : transitionDec d i = d.resync) : (d.next x).AtReset := by
  rw [next_of_selected hsel hword, hi]
  exact d.resync_atReset

/-- The table of R139, for the row that a byte selects. -/
theorem Dec.next_state_mem (d : Dec) (b : Byte) : (d.next (some b)).state ∈ fsmSuccessors d.state := by
  unfold next
  cases hstate : d.state with
  | awaitPreamble1 => rw [selectRow_awaitPreamble1 b hstate]; split <;> simp [transitionDec, fsmSuccessors]
  | awaitPreamble2 => rw [selectRow_awaitPreamble2 b hstate]; split <;> simp [transitionDec, fsmSuccessors]
  | awaitPreamble3 => rw [selectRow_awaitPreamble3 b hstate]; split <;> simp [transitionDec, fsmSuccessors]
  | awaitLength => rw [selectRow_awaitLength b hstate]; split <;> simp [transitionDec, fsmSuccessors]
  | awaitCommand => rw [selectRow_awaitCommand b hstate]; simp [transitionDec, fsmSuccessors]
  | awaitPayload =>
    simp only [selectRow, Dec.key_state, hstate]
    split
    · simp [transitionDec, fsmSuccessors, hstate]
    split <;> simp [transitionDec, fsmSuccessors]

/-! ### R27 without the buffer's form

`Dec.AtReset` says nothing of the buffer, so runs from it keep R27's items but need not have the buffer's list in canonical form. -/

theorem Dec.consistent_of_beforeLength {d : Dec}
    (hstate : d.state = .awaitPreamble1 ∨ d.state = .awaitPreamble2 ∨ d.state = .awaitPreamble3 ∨ d.state = .awaitLength)
    (hzero : d.len = 0 ∧ d.cmd = 0 ∧ d.cnt = 0 ∧ d.acc = 0) : d.Consistent where
  countBounded := by simp [hzero]
  beforeLength _ := hzero
  beforeCommand h := by simp [h] at hstate
  inPayload h := by simp [h] at hstate

theorem Dec.AtReset.consistent {d : Dec} (h : d.AtReset) : d.Consistent := consistent_of_beforeLength (.inl h.1) h.2

/-- Waiting for the first preamble byte is the reset state (R27 item 2). -/
theorem Dec.Consistent.atReset {d : Dec} (h : d.Consistent) (hstate : d.state = .awaitPreamble1) : d.AtReset :=
  ⟨hstate, h.beforeLength (.inl hstate)⟩

/-- A payload byte is folded into `DEC.acc` and is the next of the bytes counted. -/
theorem Dec.Consistent.storePayload {d : Dec} (h : d.Consistent) (b : Byte) (hstate : d.state = .awaitPayload)
    (hlt : d.cnt < d.len) : (transitionDec d (.decPayload b)).Consistent where
  countBounded := by simp only [transitionDec, Fin.le_def, countOf_succ_val hlt, fold_len]; exact hlt
  beforeLength := by simp [transitionDec, hstate]
  beforeCommand := by simp [transitionDec, hstate]
  inPayload _ := by
    have hprefix : (transitionDec d (.decPayload b)).bufPrefix (d.cnt.val + 1) = d.bufPrefix d.cnt ++ [b] :=
      bufPrefix_write_succ d d.cnt b
    calc d.acc ^^^ b
        = BitVec.ofNat 8 d.len ^^^ d.cmd ^^^ xorAll (d.bufPrefix d.cnt ++ [b]) := by
          simp [h.inPayload hstate, xorAll_append, BitVec.xor_assoc]
      _ = _ := by rw [← hprefix, ← countOf_succ_val hlt]; rfl

theorem transitionDec_consistent {d : Dec} (h : d.Consistent) {i : Instr} (hsel : i.selected d.key = true) :
    (transitionDec d i).Consistent := by
  cases i with
  | encCmd _ | encPayload _ _ | decStep | decIdle => exact h
  | decP1Match | decP2Match | decP3Match =>
    have hstate := of_decide_eq_true hsel
    rw [Dec.key_state] at hstate
    exact Dec.consistent_of_beforeLength (by simp [transitionDec]) (h.beforeLength (by simp [hstate]))
  | decP1Miss _ | decP2Miss _ | decP3Miss _ | decLenOver _ | decCsumOk _ | decCsumBad _ =>
    exact d.resync_atReset.consistent
  | decLenOk b =>
    obtain ⟨hstate, hb⟩ := of_decide_eq_true hsel
    rw [Dec.key_state] at hstate
    obtain ⟨-, hcmd, hcnt, hacc⟩ := h.beforeLength (by simp [hstate])
    constructor <;> simp [transitionDec, hcmd, hcnt, hacc, countOf_val hb]
  | decCmd b =>
    obtain ⟨hcnt, -, hacc⟩ := h.beforeCommand (of_decide_eq_true hsel)
    constructor <;> simp [transitionDec, hcnt, hacc, Dec.bufPrefix]
  | decPayload b =>
    obtain ⟨hstate, hlt⟩ := (payloadDue_iff d.key).1 hsel
    exact h.storePayload b hstate hlt

theorem Dec.Consistent.next {d : Dec} (h : d.Consistent) (x : Option Byte) : (d.next x).Consistent :=
  transitionDec_consistent h (selectRow_selected h.countBounded x)

theorem Dec.Inv.next {d : Dec} (h : d.Inv) (x : Option Byte) : (d.next x).Inv :=
  transitionDec_inv h (selectRow_selected h.countBounded x)

/-! ### `DEC` under a list of inputs -/

/-- `DEC` after a list of inputs. -/
def Dec.run (d : Dec) (xs : List (Option Byte)) : Dec := xs.foldl Dec.next d

/-- The answers to a list of inputs. -/
def Dec.answers : Dec → List (Option Byte) → List DecResult
  | _, [] => []
  | d, x :: xs => d.answer x :: (d.next x).answers xs

@[simp] theorem Dec.run_nil (d : Dec) : d.run [] = d := rfl
@[simp] theorem Dec.run_cons (d : Dec) (x : Option Byte) (xs : List (Option Byte)) : d.run (x :: xs) = (d.next x).run xs := rfl
@[simp] theorem Dec.answers_nil (d : Dec) : d.answers [] = [] := rfl
@[simp] theorem Dec.answers_cons (d : Dec) (x : Option Byte) (xs : List (Option Byte)) :
    d.answers (x :: xs) = d.answer x :: (d.next x).answers xs := rfl

theorem Dec.run_append (d : Dec) (xs ys : List (Option Byte)) : d.run (xs ++ ys) = (d.run xs).run ys :=
  List.foldl_append

theorem Dec.answers_append (d : Dec) (xs ys : List (Option Byte)) :
    d.answers (xs ++ ys) = d.answers xs ++ (d.run xs).answers ys := by
  induction xs generalizing d with
  | nil => rfl
  | cons x xs ih => simp [ih]

theorem Dec.Consistent.run {d : Dec} (h : d.Consistent) (xs : List (Option Byte)) : (d.run xs).Consistent := by
  induction xs generalizing d with
  | nil => exact h
  | cons x xs ih => exact ih (h.next x)

theorem Dec.Inv.run {d : Dec} (h : d.Inv) (xs : List (Option Byte)) : (d.run xs).Inv := by
  induction xs generalizing d with
  | nil => exact h
  | cons x xs ih => exact ih (h.next x)

/-- The frame that an answer hands up, if it hands up one. -/
def DecResult.frame? : DecResult → Option Frame
  | .noFrame => none
  | .frame f => some f

/-- The frames among a list of answers, in order. -/
def framesIn (rs : List DecResult) : List Frame := rs.filterMap DecResult.frame?

theorem framesIn_append (rs rs' : List DecResult) : framesIn (rs ++ rs') = framesIn rs ++ framesIn rs' :=
  List.filterMap_append

theorem framesIn_cons (r : DecResult) (rs : List DecResult) : framesIn (r :: rs) = framesIn [r] ++ framesIn rs :=
  framesIn_append [r] rs

theorem framesIn_replicate_noFrame (n : Nat) : framesIn (List.replicate n .noFrame) = [] :=
  List.filterMap_replicate_of_none rfl

/-- The machine after an input fed to its decoder. -/
def State.fed (x : Option Byte) (s : State) : State :=
  ({ s with dec := s.dec.next x } : State).answer (s.dec.answer x)

@[simp] theorem State.fed_dec (x : Option Byte) (s : State) : (s.fed x).dec = s.dec.next x := State.answer_dec _ _
@[simp] theorem State.fed_result (x : Option Byte) (s : State) : (s.fed x).result = s.dec.answer x := State.answer_result _ _
theorem State.fed_delivered (x : Option Byte) (s : State) :
    (s.fed x).delivered = s.delivered ++ framesIn [s.dec.answer x] := by
  unfold fed
  cases s.dec.answer x with
  | noFrame => exact (List.append_nil _).symm
  | frame f => rfl

theorem exec_selectRow_fed {s : State} (h : s.dec.cnt ≤ s.dec.len) (x : Option Byte) :
    exec (selectRow s.dec.key x) s = .next (s.fed x) :=
  exec_selectRow h x

theorem exec_decStep_fed {s : State} (h : s.dec.cnt ≤ s.dec.len) :
    exec .decStep s = .next (({ s with rx := s.rx.tail } : State).fed s.rx.head?) :=
  (exec_decStep s).trans (exec_selectRow_fed (s := { s with rx := s.rx.tail }) h s.rx.head?)

/-- Where `DEC` meets R27, feeding inputs to the machine always succeeds; it is `DEC` under these inputs, with the frames among its
answers recorded. -/
theorem feed_of_consistent (xs : List (Option Byte)) {s : State} (h : s.dec.Consistent) :
    ∃ t, feed xs s = some (t, s.dec.answers xs) ∧ t.dec = s.dec.run xs ∧
      t.delivered = s.delivered ++ framesIn (s.dec.answers xs) := by
  induction xs generalizing s with
  | nil => exact ⟨s, rfl, rfl, (List.append_nil _).symm⟩
  | cons x xs ih =>
    obtain ⟨t, ht, hdec, hdel⟩ := ih (s := s.fed x) (by rw [State.fed_dec]; exact h.next x)
    rw [State.fed_dec] at ht hdec hdel
    refine ⟨t, ?_, hdec, ?_⟩
    · rw [feed_cons (exec_selectRow_fed h.countBounded x), ht, State.fed_result]
      rfl
    · rw [hdel, State.fed_delivered, List.append_assoc, ← framesIn_cons]
      rfl

theorem feed_eq_some_of_consistent {xs : List (Option Byte)} {s t : State} {rs : List DecResult} (hs : s.dec.Consistent)
    (h : feed xs s = some (t, rs)) : t.dec = s.dec.run xs ∧ rs = s.dec.answers xs := by
  obtain ⟨u, hu, hdec, -⟩ := feed_of_consistent xs hs
  cases hu.symm.trans h
  exact ⟨hdec, rfl⟩

/-! ### The edges of R139's table -/

/-- Some bytes from reset and one byte more realise the edge that the last byte takes. -/
theorem edge_taken {a c : FsmState} (bytes : List Byte) (b : Byte) (ha : (Dec.reset.run (bytes.map some)).state = a)
    (hc : ((Dec.reset.run (bytes.map some)).next (some b)).state = c) :
    ∃ (s t : State) (b : Byte) (rest : List Byte),
      s.dec.state = a ∧ t.dec.state = c ∧ s.dec.Inv ∧ s.rx = b :: rest ∧ exec .decStep s = .next t := by
  have hinv := Dec.reset_inv.run (bytes.map some)
  refine ⟨{ State.reset with dec := Dec.reset.run (bytes.map some), rx := [b] }, _, b, [], ha, ?_, hinv, rfl,
    exec_decStep_fed hinv.countBounded⟩
  rw [State.fed_dec]
  exact hc

/-- Settles O22: a byte's row moves along an edge, and each edge is taken by a byte that comes after some bytes from reset. -/
theorem decoderMovesOnlyAlongItsEdges : Obligations.DecoderMovesOnlyAlongItsEdges := by
  refine ⟨fun s t b rest hrx h => ?_, fun a c hc => ?_⟩
  · rw [execDecStep_cons hrx, exec_transition_eq_next (selectRow_isTransition _ _)] at h
    obtain ⟨-, rfl⟩ := h
    rw [State.answer_dec]
    exact s.dec.next_state_mem b
  · cases a with
    | awaitPreamble1 =>
      obtain rfl | rfl : c = .awaitPreamble2 ∨ c = .awaitPreamble1 := by simpa [fsmSuccessors] using hc
      · exact edge_taken [] 0x24 rfl rfl
      · exact edge_taken [] 0x00 rfl rfl
    | awaitPreamble2 =>
      obtain rfl | rfl : c = .awaitPreamble3 ∨ c = .awaitPreamble1 := by simpa [fsmSuccessors] using hc
      · exact edge_taken [0x24] 0x4D rfl rfl
      · exact edge_taken [0x24] 0x24 rfl rfl
    | awaitPreamble3 =>
      obtain rfl | rfl : c = .awaitLength ∨ c = .awaitPreamble1 := by simpa [fsmSuccessors] using hc
      · exact edge_taken [0x24, 0x4D] 0x3C rfl rfl
      · exact edge_taken [0x24, 0x4D] 0x24 rfl rfl
    | awaitLength =>
      obtain rfl | rfl : c = .awaitCommand ∨ c = .awaitPreamble1 := by simpa [fsmSuccessors] using hc
      · exact edge_taken [0x24, 0x4D, 0x3C] 0x40 rfl rfl
      · exact edge_taken [0x24, 0x4D, 0x3C] 0x41 rfl rfl
    | awaitCommand =>
      obtain rfl : c = .awaitPayload := by simpa [fsmSuccessors] using hc
      exact edge_taken [0x24, 0x4D, 0x3C, 0x01] 0x10 rfl rfl
    | awaitPayload =>
      obtain rfl | rfl : c = .awaitPayload ∨ c = .awaitPreamble1 := by simpa [fsmSuccessors] using hc
      · exact edge_taken [0x24, 0x4D, 0x3C, 0x01, 0x10] 0xAA rfl rfl
      · exact edge_taken [0x24, 0x4D, 0x3C, 0x00, 0x69] 0x69 rfl rfl

/-! ### The frame that `DEC` is in -/

/-- The bytes of the current frame that `DEC` has taken so far, read back from its fields. -/
def Dec.partialFrame (d : Dec) : List Byte :=
  match d.state with
  | .awaitPreamble1 => []
  | .awaitPreamble2 => [params.pre1]
  | .awaitPreamble3 => [params.pre1, params.pre2]
  | .awaitLength => [params.pre1, params.pre2, params.pre3]
  | .awaitCommand => [params.pre1, params.pre2, params.pre3, BitVec.ofNat 8 d.len]
  | .awaitPayload => [params.pre1, params.pre2, params.pre3, BitVec.ofNat 8 d.len, d.cmd] ++ d.bufPrefix d.cnt

theorem Dec.partialFrame_awaitPayload {d : Dec} (h : d.state = .awaitPayload) : d.partialFrame =
    [params.pre1, params.pre2, params.pre3, BitVec.ofNat 8 d.len, d.cmd] ++ d.bufPrefix d.cnt := by
  simp [partialFrame, h]

theorem Dec.AtReset.partialFrame {d : Dec} (h : d.AtReset) : d.partialFrame = [] := by
  simp [Dec.partialFrame, h.1]

/-- A frame without its checksum. -/
def frameBody (cmd : Byte) (payload : List Byte) : List Byte :=
  [params.pre1, params.pre2, params.pre3, BitVec.ofNat 8 payload.length, cmd] ++ payload

theorem encodeFrame_eq (cmd : Byte) (payload : List Byte) :
    encodeFrame cmd payload = frameBody cmd payload ++ [checksum cmd payload] := rfl

@[simp] theorem frameBody_length (cmd : Byte) (payload : List Byte) : (frameBody cmd payload).length = payload.length + 5 := by
  simp [frameBody]

/-- A partial frame lacks at least the checksum of a frame of 64 payload bytes. -/
theorem Dec.partialFrame_length_le (d : Dec) : d.partialFrame.length ≤ 69 := by
  cases hstate : d.state with
  | awaitPayload =>
    rw [partialFrame_awaitPayload hstate, List.length_append, bufPrefix_length]
    exact Nat.add_le_add_left (Nat.le_of_lt_succ d.cnt.isLt) 5
  | _ => simp [partialFrame, hstate]

/-- Whether a row takes its byte as the next of the current frame. -/
def advances : Instr → Bool
  | .decP1Match | .decP2Match | .decP3Match | .decLenOk _ | .decCmd _ | .decPayload _ => true
  | _ => false

theorem transitionResult_of_advances (d : Dec) {i : Instr} (h : advances i = true) : transitionResult d i = .noFrame := by
  cases i with
  | decCsumOk _ => cases h
  | _ => rfl

/-- Such a row adds its byte to the current frame. -/
theorem partialFrame_advance {d : Dec} (h : d.Consistent) {i : Instr} (hadv : advances i = true)
    (hsel : i.selected d.key = true) {b : Byte} (hword : encode i = .rx (some b)) :
    (transitionDec d i).partialFrame = d.partialFrame ++ [b] := by
  cases i with
  | decP1Match | decP2Match | decP3Match =>
    cases hword
    have hstate := of_decide_eq_true hsel
    rw [Dec.key_state] at hstate
    simp [Dec.partialFrame, transitionDec, hstate, params_pre1, params_pre2, params_pre3, params_rxPre1, params_rxPre2,
      params_rxPre3]
  | decLenOk b =>
    cases hword
    obtain ⟨hstate, hb⟩ := of_decide_eq_true hsel
    rw [Dec.key_state] at hstate
    simp [Dec.partialFrame, transitionDec, hstate, countOf_val hb]
  | decCmd b =>
    cases hword
    have hstate := of_decide_eq_true hsel
    rw [Dec.key_state] at hstate
    obtain ⟨hcnt, -, -⟩ := h.beforeCommand hstate
    simp [Dec.partialFrame, transitionDec, hstate, hcnt, Dec.bufPrefix]
  | decPayload b =>
    cases hword
    obtain ⟨hstate, hlt⟩ := (payloadDue_iff d.key).1 hsel
    have hprefix : (transitionDec d (.decPayload b)).bufPrefix (countOf (d.cnt + 1)) = d.bufPrefix d.cnt ++ [b] := by
      rw [countOf_succ_val hlt]
      exact Dec.bufPrefix_write_succ d d.cnt b
    rw [Dec.partialFrame_awaitPayload hstate, Dec.partialFrame_awaitPayload (d := transitionDec d (.decPayload b)) hstate,
      List.append_assoc, ← hprefix]
    rfl
  | _ => cases hadv

/-- Where a checksum is due, the current frame wants it alone: it is the body of the frame completed, and `DEC.acc` is the
checksum (R27 item 4, R133). -/
theorem Dec.Consistent.partialFrame_of_checksumDue {d : Dec} (h : d.Consistent) (hdue : checksumDue d.key = true) :
    d.partialFrame = frameBody d.cmd d.completed.payload ∧ d.acc = checksum d.cmd d.completed.payload := by
  obtain ⟨hstate, hcnt⟩ := (checksumDue_iff d.key).1 hdue
  have hcnt : d.cnt = d.len := hcnt
  have hacc := h.inPayload hstate
  rw [hcnt] at hacc
  constructor
  · rw [partialFrame_awaitPayload hstate, hcnt, frameBody, completed, bufPrefix_length]
  · rw [hacc, checksum, completed, bufPrefix_length]

/-- What a byte does to the current frame: it is added to it, or ends it. It ends it with a frame handed up only where the two
together are that frame. -/
theorem Dec.Consistent.next_some_cases {d : Dec} (h : d.Consistent) (b : Byte) :
    ((d.next (some b)).partialFrame = d.partialFrame ++ [b] ∧ d.answer (some b) = .noFrame) ∨
    ((d.next (some b)).AtReset ∧ d.answer (some b) = .noFrame) ∨
    ((d.next (some b)).AtReset ∧ ∃ f, d.answer (some b) = .frame f ∧ f.len.val = f.payload.length ∧
      d.partialFrame ++ [b] = encodeFrame f.cmd f.payload) := by
  have hsel := selectRow_selected (k := d.key) h.countBounded (some b)
  have hword := (selectRow_encode (k := d.key) (some b)).2
  unfold Dec.next Dec.answer
  cases hi : selectRow d.key (some b) with
  | decP1Match | decP2Match | decP3Match | decLenOk _ | decCmd _ | decPayload _ =>
    rw [hi] at hsel hword
    exact .inl ⟨partialFrame_advance h rfl hsel hword, rfl⟩
  | decP1Miss _ | decP2Miss _ | decP3Miss _ | decLenOver _ | decCsumBad _ =>
    exact .inr (.inl ⟨d.resync_atReset, rfl⟩)
  | decCsumOk c =>
    rw [hi] at hsel hword
    cases hword
    obtain ⟨hdue, rfl⟩ := decCsumOk_selected.1 hsel
    obtain ⟨hframe, hacc⟩ := h.partialFrame_of_checksumDue hdue
    refine .inr (.inr ⟨d.resync_atReset, d.completed, rfl, (bufPrefix_length _ _).symm, ?_⟩)
    rw [hframe, Dec.key_acc, hacc]
    rfl
  | decIdle | encCmd _ | encPayload _ _ | decStep => rw [hi] at hword; cases hword

theorem Dec.Consistent.next_partialFrame {d : Dec} (h : d.Consistent) (b : Byte) :
    (d.next (some b)).partialFrame = d.partialFrame ++ [b] ∨ (d.next (some b)).AtReset := by
  obtain ⟨hp, -⟩ | ⟨hr, -⟩ | ⟨hr, -⟩ := h.next_some_cases b
  · exact .inl hp
  · exact .inr hr
  · exact .inr hr

/-! ### Bytes in, frames out -/

/-- The bytes of the current frame are the last of the bytes taken. -/
theorem Dec.Consistent.run_partialFrame_suffix {d : Dec} (h : d.Consistent) (xs : List (Option Byte)) :
    (d.run xs).partialFrame <:+ d.partialFrame ++ xs.filterMap id := by
  induction xs generalizing d with
  | nil => simp
  | cons x xs ih =>
    cases x with
    | none => exact ih (h.next none)
    | some b =>
      have hnext : (d.next (some b)).partialFrame <:+ d.partialFrame ++ [b] := by
        obtain hp | hr := h.next_partialFrame b
        · rw [hp]
        · rw [hr.partialFrame]; exact List.nil_suffix
      calc (d.run (some b :: xs)).partialFrame <:+ (d.next (some b)).partialFrame ++ xs.filterMap id := ih (h.next (some b))
        _ <:+ d.partialFrame ++ [b] ++ xs.filterMap id := List.suffix_append_self_iff.2 hnext
        _ = d.partialFrame ++ (some b :: xs).filterMap id := List.append_assoc ..

/-- Settles O29: the current frame and the byte that completes it are the frame handed up, and they are what came last. -/
theorem deliveredFramesWereReceived : Obligations.DeliveredFramesWereReceived := by
  intro inputs s t rs f hs h
  obtain ⟨-, hrs⟩ := feed_eq_some_of_consistent hs.consistent h
  obtain rfl | ⟨init, x, rfl⟩ := List.eq_nil_or_concat inputs
  · simp at hrs
  · rw [List.concat_eq_append, Dec.answers_append] at hrs
    obtain ⟨-, hlast⟩ := List.append_inj' hrs rfl
    have hlast : (s.dec.run init).answer x = .frame f := by simpa using hlast.symm
    cases x with
    | none => cases hlast
    | some b =>
      obtain ⟨-, hr⟩ | ⟨-, hr⟩ | ⟨-, f', hr, hlen, hframe⟩ := (hs.consistent.run init).next_some_cases b
      · cases hr.symm.trans hlast
      · cases hr.symm.trans hlast
      · cases hr.symm.trans hlast
        obtain ⟨before, hb⟩ := hs.consistent.run_partialFrame_suffix init
        rw [hs.partialFrame, List.nil_append] at hb
        exact ⟨hlen, before, by rw [List.concat_eq_append, List.filterMap_append, ← hb, ← hframe, List.append_assoc]; rfl⟩

/-- Each frame takes six bytes, of which those of the current frame are not yet used. -/
theorem Dec.Consistent.six_mul_frames_le {d : Dec} (h : d.Consistent) (xs : List (Option Byte)) :
    6 * ((d.answers xs).filter (· ≠ .noFrame)).length + (d.run xs).partialFrame.length ≤
      d.partialFrame.length + (xs.filterMap id).length := by
  induction xs generalizing d with
  | nil => simp
  | cons x xs ih =>
    have ih := ih (h.next x)
    cases x with
    | none => exact ih
    | some b =>
      obtain ⟨hp, hr⟩ | ⟨hp, hr⟩ | ⟨hp, f, hr, -, hframe⟩ := h.next_some_cases b
      · simp [hp, hr] at ih ⊢; omega
      · simp [hp.partialFrame, hr] at ih ⊢; omega
      · have hlen := congrArg List.length hframe
        simp [hp.partialFrame, hr] at ih hlen ⊢; omega

/-- Settles O31: in the reset state no byte belongs to a current frame. -/
theorem sixBytesForEachFrame : Obligations.SixBytesForEachFrame := by
  intro inputs s t rs hs h
  obtain ⟨-, rfl⟩ := feed_eq_some_of_consistent hs.consistent h
  have hsix := hs.consistent.six_mul_frames_le inputs
  rw [hs.partialFrame, List.length_nil, Nat.zero_add] at hsix
  exact (Nat.le_add_right _ _).trans hsix

/-- Bytes that make more than the longest partial frame bring `DEC` to the reset state on their way. -/
theorem Dec.Consistent.exists_run_atReset {d : Dec} (h : d.Consistent) (bytes : List Byte)
    (hlen : 69 < d.partialFrame.length + bytes.length) :
    ∃ k, 1 ≤ k ∧ k ≤ bytes.length ∧ (d.run ((bytes.take k).map some)).AtReset := by
  induction bytes generalizing d with
  | nil => exact absurd d.partialFrame_length_le (Nat.not_le_of_lt hlen)
  | cons b bs ih =>
    obtain hp | hr := h.next_partialFrame b
    · obtain ⟨k, -, hk, hr⟩ := ih (h.next (some b)) (by simp [hp] at hlen ⊢; omega)
      exact ⟨k + 1, Nat.le_add_left 1 k, Nat.succ_le_succ hk, hr⟩
    · exact ⟨1, Nat.le_refl 1, Nat.le_add_left 1 _, hr⟩

theorem Dec.partialFrame_length_pos {d : Dec} (h : d.state ≠ .awaitPreamble1) : 0 < d.partialFrame.length := by
  unfold partialFrame
  split <;> simp_all

/-- Settles O28: a partial frame has at most 69 bytes, and at least one outside `AWAIT_PREAMBLE_1`. -/
theorem recoveryIsBounded : Obligations.RecoveryIsBounded := by
  intro s bytes hinv hlen
  have hlong : 69 < s.dec.partialFrame.length + bytes.length := by
    split at hlen
    · omega
    · next hstate => have := Dec.partialFrame_length_pos hstate; omega
  obtain ⟨k, hk, hkl, hr⟩ := hinv.toConsistent.exists_run_atReset bytes hlong
  obtain ⟨t, ht, hdec, -⟩ := feed_of_consistent ((bytes.take k).map some) hinv.toConsistent
  exact ⟨k, t, _, hk, hkl, ht, hdec ▸ hr⟩

/-! ### A frame fed to `DEC` -/

/-- In `AWAIT_PAYLOAD`, what the current frame has of a body, and what it wants. -/
theorem Dec.payload_of_frameBody {d : Dec} (hstate : d.state = .awaitPayload) {cmd : Byte} {payload rest : List Byte}
    (hlen : payload.length ≤ 64) (hbody : d.partialFrame ++ rest = frameBody cmd payload) :
    d.len.val = payload.length ∧ d.cmd = cmd ∧ d.bufPrefix d.cnt ++ rest = payload := by
  rw [partialFrame_awaitPayload hstate, List.append_assoc, frameBody] at hbody
  obtain ⟨hheader, hpayload⟩ := List.append_inj hbody rfl
  obtain ⟨hn, hcmd⟩ : BitVec.ofNat 8 d.len.val = BitVec.ofNat 8 payload.length ∧ d.cmd = cmd := by
    simpa only [List.cons.injEq, true_and, and_true] using hheader
  have hn := congrArg BitVec.toNat hn
  rw [lengthByte_toNat hlen, BitVec.toNat_ofNat] at hn
  have hlt : d.len.val < 65 := d.len.isLt
  exact ⟨by omega, hcmd, hpayload⟩

/-- While the current frame is on its way to a body, the next byte of that body is added to it. -/
theorem Dec.Consistent.next_of_frameBody {d : Dec} (h : d.Consistent) {cmd b : Byte} {payload rest : List Byte}
    (hlen : payload.length ≤ 64) (hbody : d.partialFrame ++ b :: rest = frameBody cmd payload) :
    (d.next (some b)).partialFrame = d.partialFrame ++ [b] ∧ d.answer (some b) = .noFrame := by
  have advance : ∀ i, advances i = true → i.selected d.key = true → encode i = .rx (some b) →
      (d.next (some b)).partialFrame = d.partialFrame ++ [b] ∧ d.answer (some b) = .noFrame := by
    intro i hadv hsel hword
    rw [next_of_selected hsel hword, answer_of_selected hsel hword]
    exact ⟨partialFrame_advance h hadv hsel hword, transitionResult_of_advances d hadv⟩
  cases hstate : d.state with
  | awaitPreamble1 =>
    obtain ⟨rfl, -⟩ : b = params.pre1 ∧ _ := by simpa [partialFrame, frameBody, hstate] using hbody
    exact advance .decP1Match rfl (decide_eq_true hstate) rfl
  | awaitPreamble2 =>
    obtain ⟨rfl, -⟩ : b = params.pre2 ∧ _ := by simpa [partialFrame, frameBody, hstate] using hbody
    exact advance .decP2Match rfl (decide_eq_true hstate) rfl
  | awaitPreamble3 =>
    obtain ⟨rfl, -⟩ : b = params.pre3 ∧ _ := by simpa [partialFrame, frameBody, hstate] using hbody
    exact advance .decP3Match rfl (decide_eq_true hstate) rfl
  | awaitLength =>
    obtain ⟨rfl, -⟩ : b = BitVec.ofNat 8 payload.length ∧ _ := by simpa [partialFrame, frameBody, hstate] using hbody
    exact advance (.decLenOk _) rfl (decide_eq_true ⟨hstate, (lengthByte_toNat hlen).trans_le hlen⟩) rfl
  | awaitCommand => exact advance (.decCmd b) rfl (decide_eq_true hstate) rfl
  | awaitPayload =>
    obtain ⟨hn, -, hpayload⟩ := payload_of_frameBody hstate hlen hbody
    have hcount := congrArg List.length hpayload
    rw [List.length_append, bufPrefix_length, List.length_cons] at hcount
    have hlt : d.cnt < d.len := Fin.lt_def.2 (by omega)
    exact advance (.decPayload b) rfl ((payloadDue_iff d.key).2 ⟨hstate, hlt⟩) rfl

/-- The rest of a body, fed to `DEC`, completes it and hands up nothing. -/
theorem Dec.Consistent.run_of_frameBody {d : Dec} (h : d.Consistent) {cmd : Byte} {payload : List Byte} (bytes : List Byte)
    (hlen : payload.length ≤ 64) (hbody : d.partialFrame ++ bytes = frameBody cmd payload) :
    (d.run (bytes.map some)).partialFrame = frameBody cmd payload ∧
      d.answers (bytes.map some) = List.replicate bytes.length .noFrame := by
  induction bytes generalizing d with
  | nil => exact ⟨by simpa using hbody, rfl⟩
  | cons b bs ih =>
    obtain ⟨hp, hr⟩ := h.next_of_frameBody hlen hbody
    obtain ⟨hrun, hanswers⟩ := ih (h.next (some b)) (by rw [hp, ← hbody, List.append_assoc]; rfl)
    exact ⟨hrun, by simp [hr, hanswers, List.replicate_succ]⟩

/-- Where the current frame is a body, its checksum is due, and `DEC` has its content. -/
theorem Dec.Consistent.due_of_frameBody {d : Dec} (h : d.Consistent) {cmd : Byte} {payload : List Byte}
    (hlen : payload.length ≤ 64) (hbody : d.partialFrame = frameBody cmd payload) :
    checksumDue d.key = true ∧ d.acc = checksum cmd payload ∧
      d.completed = { cmd := cmd, len := countOf payload.length, payload := payload } := by
  have hstate : d.state = .awaitPayload := by
    have hcount : 5 ≤ d.partialFrame.length := by
      rw [hbody, frameBody_length]
      exact Nat.le_add_left 5 _
    cases hstate : d.state with
    | awaitPayload => rfl
    | _ => simp [partialFrame, hstate] at hcount
  obtain ⟨hn, hcmd, hpayload⟩ := payload_of_frameBody (rest := []) hstate hlen (by simpa using hbody)
  rw [List.append_nil] at hpayload
  have hcnt : d.cnt = d.len := Fin.ext (by rw [hn, ← hpayload, bufPrefix_length])
  have hdue := (checksumDue_iff d.key).2 ⟨hstate, hcnt⟩
  have hcompleted : d.completed = { cmd := cmd, len := countOf payload.length, payload := payload } := by
    have hcount : d.len = countOf payload.length := Fin.ext (hn.trans (countOf_val hlen).symm)
    rw [completed, ← hcnt, hpayload, hcnt, hcmd, hcount]
  have hacc := (h.partialFrame_of_checksumDue hdue).2
  rw [hcompleted, hcmd] at hacc
  exact ⟨hdue, hacc, hcompleted⟩

/-- A body, fed to `DEC` in the reset state, hands up nothing and leaves its checksum due. -/
theorem Dec.AtReset.run_frameBody {d : Dec} (h : d.AtReset) (cmd : Byte) {payload : List Byte} (hlen : payload.length ≤ 64) :
    d.answers ((frameBody cmd payload).map some) = List.replicate (payload.length + 5) .noFrame ∧
      checksumDue (d.run ((frameBody cmd payload).map some)).key = true ∧
      (d.run ((frameBody cmd payload).map some)).acc = checksum cmd payload ∧
      (d.run ((frameBody cmd payload).map some)).completed = { cmd := cmd, len := countOf payload.length, payload := payload } := by
  obtain ⟨hbody, hanswers⟩ :=
    h.consistent.run_of_frameBody (frameBody cmd payload) hlen (by rw [h.partialFrame, List.nil_append])
  rw [frameBody_length] at hanswers
  exact ⟨hanswers, (h.consistent.run _).due_of_frameBody hlen hbody⟩

/-- The answers to a frame: none at each byte but the last, and there its content. -/
def frameAnswers (cmd : Byte) (payload : List Byte) : List DecResult :=
  List.replicate (payload.length + 5) .noFrame ++ [.frame { cmd := cmd, len := countOf payload.length, payload := payload }]

/-- A whole frame is handed up at its last byte, and `DEC` is in the reset state again (R141). -/
theorem Dec.AtReset.run_encodeFrame {d : Dec} (h : d.AtReset) (cmd : Byte) {payload : List Byte} (hlen : payload.length ≤ 64) :
    d.answers ((encodeFrame cmd payload).map some) = frameAnswers cmd payload ∧
      (d.run ((encodeFrame cmd payload).map some)).AtReset := by
  obtain ⟨hanswers, hdue, hacc, hcompleted⟩ := h.run_frameBody cmd hlen
  have hsel : (Instr.decCsumOk (checksum cmd payload)).selected (d.run ((frameBody cmd payload).map some)).key = true :=
    decCsumOk_selected.2 ⟨hdue, hacc.symm⟩
  rw [encodeFrame_eq, List.map_append, answers_append, run_append, hanswers, frameAnswers, ← hcompleted]
  exact ⟨congrArg (_ ++ [·]) (answer_of_selected hsel rfl), next_atReset hsel rfl rfl⟩

/-- A body followed by a byte that is not its checksum hands up nothing, and `DEC` is in the reset state again (R134, R144). -/
theorem Dec.AtReset.run_wrong_checksum {d : Dec} (h : d.AtReset) (cmd : Byte) {payload : List Byte} (hlen : payload.length ≤ 64)
    {last : Byte} (hlast : last ≠ checksum cmd payload) :
    selectRow (d.run ((frameBody cmd payload).map some)).key (some last) = .decCsumBad last ∧
      d.answers ((frameBody cmd payload ++ [last]).map some) = List.replicate (payload.length + 6) .noFrame ∧
      (d.run ((frameBody cmd payload ++ [last]).map some)).AtReset := by
  obtain ⟨hanswers, hdue, hacc, -⟩ := h.run_frameBody cmd hlen
  have hsel : (Instr.decCsumBad last).selected (d.run ((frameBody cmd payload).map some)).key = true :=
    decCsumBad_selected.2 ⟨hdue, fun hb => hlast (hb.trans hacc)⟩
  rw [List.map_append, answers_append, run_append, hanswers, List.replicate_succ' (n := payload.length + 5)]
  exact ⟨selectRow_of_selected hsel rfl, congrArg (_ ++ [·]) (answer_of_selected hsel rfl),
    next_atReset hsel rfl rfl⟩

/-- Settles O24, from `run_encodeFrame`. -/
theorem frameRoundTrip : Obligations.FrameRoundTrip := by
  intro cmd payload s hlen hs
  obtain ⟨hanswers, hreset⟩ := hs.run_encodeFrame cmd hlen
  obtain ⟨t, ht, hdec, -⟩ := feed_of_consistent ((encodeFrame cmd payload).map some) hs.consistent
  rw [hanswers] at ht
  exact ⟨t, countOf payload.length, countOf_val hlen, ht, hdec ▸ hreset⟩

/-! ### Several frames, and noise -/

theorem Dec.AtReset.run_frames {d : Dec} (h : d.AtReset) (reqs : List (Byte × List Byte))
    (hlen : ∀ r ∈ reqs, r.2.length ≤ 64) :
    d.answers ((reqs.flatMap fun r => encodeFrame r.1 r.2).map some) = (reqs.flatMap fun r => frameAnswers r.1 r.2) ∧
      (d.run ((reqs.flatMap fun r => encodeFrame r.1 r.2).map some)).AtReset := by
  induction reqs generalizing d with
  | nil => exact ⟨rfl, h⟩
  | cons r reqs ih =>
    obtain ⟨hr, hreqs⟩ := List.forall_mem_cons.1 hlen
    obtain ⟨hanswers, hreset⟩ := h.run_encodeFrame r.1 hr
    obtain ⟨hrest, hend⟩ := ih hreset hreqs
    rw [List.flatMap_cons, List.flatMap_cons, List.map_append, answers_append, run_append, hanswers, hrest]
    exact ⟨rfl, hend⟩

theorem framesIn_flatMap_frameAnswers (reqs : List (Byte × List Byte)) :
    framesIn (reqs.flatMap fun r => frameAnswers r.1 r.2) =
      reqs.map fun r => { cmd := r.1, len := countOf r.2.length, payload := r.2 } := by
  induction reqs with
  | nil => rfl
  | cons r reqs ih =>
    rw [List.flatMap_cons, framesIn_append, ih, frameAnswers, framesIn_append, framesIn_replicate_noFrame]
    rfl

/-- Settles O25, by induction on the frames: each begins and ends in the reset state. -/
theorem backToBackFramesAreAllDelivered : Obligations.BackToBackFramesAreAllDelivered := by
  intro reqs s hlen hs
  obtain ⟨hanswers, hreset⟩ := hs.run_frames reqs hlen
  obtain ⟨t, ht, hdec, hdelivered⟩ := feed_of_consistent ((reqs.flatMap fun r => encodeFrame r.1 r.2).map some) hs.consistent
  rw [hanswers] at ht hdelivered
  exact ⟨t, ht, hdelivered.trans (congrArg _ (framesIn_flatMap_frameAnswers reqs)), hdec ▸ hreset⟩

/-- Bytes none of which is `24` leave `DEC` in the reset state and hand up nothing (R124, R143). -/
theorem Dec.AtReset.run_noise {d : Dec} (h : d.AtReset) (noise : List Byte) (hnoise : ∀ b ∈ noise, b ≠ 0x24) :
    d.answers (noise.map some) = List.replicate noise.length .noFrame ∧ (d.run (noise.map some)).AtReset := by
  induction noise generalizing d with
  | nil => exact ⟨rfl, h⟩
  | cons b bs ih =>
    obtain ⟨hb, hbs⟩ := List.forall_mem_cons.1 hnoise
    have hsel : (Instr.decP1Miss b).selected d.key = true := decide_eq_true ⟨h.1, hb⟩
    have hreset : (d.next (some b)).AtReset := next_atReset hsel rfl rfl
    obtain ⟨hanswers, hend⟩ := ih hreset hbs
    exact ⟨congrArg₂ List.cons (answer_of_selected hsel rfl) hanswers, hend⟩

/-- Settles O26: a decoder that waits for the first preamble byte is in the reset state (R27), and bytes but `24` keep it there. -/
theorem frameAfterNoiseIsDelivered : Obligations.FrameAfterNoiseIsDelivered := by
  refine ⟨fun noise s s' rs cmd payload hs hfeed hstate hlen => ?_, fun noise s hs hnoise => ?_⟩
  · obtain ⟨hdec, rfl⟩ := feed_eq_some_of_consistent hs.consistent hfeed
    rw [hdec] at hstate
    obtain ⟨hanswers, hreset⟩ := ((hs.consistent.run _).atReset hstate).run_encodeFrame cmd hlen
    obtain ⟨t, ht, hend, -⟩ := feed_of_consistent ((noise ++ encodeFrame cmd payload).map some) hs.consistent
    rw [List.map_append, Dec.answers_append, hanswers, ← List.map_append] at ht
    rw [List.map_append, Dec.run_append] at hend
    exact ⟨t, by rw [List.append_assoc]; exact ht, hend ▸ hreset⟩
  · obtain ⟨hanswers, hreset⟩ := hs.run_noise noise hnoise
    obtain ⟨t, ht, hend, -⟩ := feed_of_consistent (noise.map some) hs.consistent
    exact ⟨t, hanswers ▸ ht, hend ▸ hreset⟩

/-! ### A frame with a byte changed -/

theorem xorAll_singleton (b : Byte) : xorAll [b] = b := BitVec.xor_zero

/-- A byte replaced changes the XOR by the difference of the two. -/
theorem xorAll_set {bytes : List Byte} {i : Nat} {a : Byte} (h : bytes[i]? = some a) (b : Byte) :
    xorAll (bytes.set i b) = xorAll bytes ^^^ (a ^^^ b) := by
  induction bytes generalizing i with
  | nil => cases h
  | cons x xs ih =>
    cases i with
    | zero =>
      cases h
      calc b ^^^ xorAll xs = (a ^^^ a) ^^^ (b ^^^ xorAll xs) := by rw [BitVec.xor_self, BitVec.zero_xor]
        _ = (a ^^^ xorAll xs) ^^^ (a ^^^ b) := by ac_rfl
    | succ i => rw [List.set_cons_succ, xorAll_cons, ih h, xorAll_cons, BitVec.xor_assoc]

/-- The bytes of a frame after its length byte. -/
def frameTail (cmd : Byte) (payload : List Byte) (last : Byte) : List Byte := cmd :: payload ++ [last]

/-- Where the last byte is the checksum, these bytes have the length byte as their XOR (R73). -/
theorem xorAll_frameTail (cmd : Byte) (payload : List Byte) :
    xorAll (frameTail cmd payload (checksum cmd payload)) = BitVec.ofNat 8 payload.length := by
  rw [frameTail, List.cons_append, xorAll_cons, xorAll_append, xorAll_singleton, checksum]
  calc cmd ^^^ (xorAll payload ^^^ (BitVec.ofNat 8 payload.length ^^^ cmd ^^^ xorAll payload))
      = (cmd ^^^ cmd) ^^^ (xorAll payload ^^^ xorAll payload) ^^^ BitVec.ofNat 8 payload.length := by ac_rfl
    _ = BitVec.ofNat 8 payload.length := by simp only [BitVec.xor_self, BitVec.zero_xor]

theorem exists_eq_frameTail {bytes : List Byte} {n : Nat} (h : bytes.length = n + 2) :
    ∃ cmd payload last, payload.length = n ∧ bytes = frameTail cmd payload last := by
  cases bytes with
  | nil => cases h
  | cons c cs =>
    obtain rfl | ⟨payload, last, rfl⟩ := List.eq_nil_or_concat cs
    · cases h
    · exact ⟨c, payload, last, by simpa using h, by rw [frameTail, List.concat_eq_append, List.cons_append]⟩

/-- A changed byte after the length leaves a body of the same length, followed by a byte that is not its checksum. -/
theorem encodeFrame_set {cmd b : Byte} {payload : List Byte} {k : Nat} (hk : 4 ≤ k) (hk' : k ≤ payload.length + 5)
    (hb : (encodeFrame cmd payload)[k]? ≠ some b) :
    ∃ cmd' payload' last, payload'.length = payload.length ∧
      (encodeFrame cmd payload).set k b = frameBody cmd' payload' ++ [last] ∧ last ≠ checksum cmd' payload' := by
  obtain ⟨j, rfl⟩ := Nat.exists_eq_add_of_le' hk
  have hlen : (frameTail cmd payload (checksum cmd payload)).length = payload.length + 2 := by simp [frameTail]
  obtain ⟨a, ha⟩ : ∃ a, (frameTail cmd payload (checksum cmd payload))[j]? = some a :=
    ⟨_, List.getElem?_eq_getElem (by omega)⟩
  obtain ⟨cmd', payload', last, hlen', htail⟩ := exists_eq_frameTail ((List.length_set (i := j) (a := b)).trans hlen)
  refine ⟨cmd', payload', last, hlen', ?_, fun hlast => hb ?_⟩
  · calc (encodeFrame cmd payload).set (j + 4) b
        = [params.pre1, params.pre2, params.pre3, BitVec.ofNat 8 payload.length] ++
            (frameTail cmd payload (checksum cmd payload)).set j b := rfl
      _ = frameBody cmd' payload' ++ [last] := by rw [htail, ← hlen']; rfl
  · have hxor := xorAll_set ha b
    rw [htail, hlast, xorAll_frameTail, xorAll_frameTail, hlen'] at hxor
    have hdiff := (BitVec.xor_right_inj _).1 (BitVec.xor_zero.trans hxor)
    rw [← BitVec.xor_eq_zero_iff.1 hdiff.symm]
    exact ha

/-- Settles O27: what is left after the change is a body with a wrong checksum. -/
theorem corruptedByteRejectsTheFrame : Obligations.CorruptedByteRejectsTheFrame := by
  intro cmd payload k b s hlen hs hk hk' hb
  obtain ⟨cmd', payload', last, hlen', hset, hlast⟩ := encodeFrame_set hk hk' hb
  rw [← hlen'] at hlen ⊢
  rw [hset]
  obtain ⟨hanswers, -⟩ := hs.run_frameBody cmd' hlen
  obtain ⟨hrow, hanswers', hreset⟩ := hs.run_wrong_checksum cmd' hlen hlast
  obtain ⟨u, hu, hudec, -⟩ := feed_of_consistent ((frameBody cmd' payload').map some) hs.consistent
  obtain ⟨t, ht, htdec, hdelivered⟩ := feed_of_consistent ((frameBody cmd' payload' ++ [last]).map some) hs.consistent
  rw [hanswers'] at ht hdelivered
  refine ⟨u, t, last, ?_, ?_, hudec ▸ hrow, ht, ?_, htdec ▸ hreset⟩
  · rw [← frameBody_length cmd', List.getElem?_concat_length]
  · rw [← frameBody_length cmd', List.take_left, hu, hanswers, frameBody_length]
  · rw [hdelivered, framesIn_replicate_noFrame, List.append_nil]

/-! ### Idle steps -/

/-- What a transition makes of `DEC` and of the delivered frames, and what it answers, follows from these two alone. -/
theorem exec_transition_congr {i : Instr} (hi : isTransition i = true) {s s' t : State} (hdec : s'.dec = s.dec)
    (hdel : s'.delivered = s.delivered) (h : exec i s = .next t) :
    ∃ t', exec i s' = .next t' ∧ t'.dec = t.dec ∧ t'.delivered = t.delivered ∧ t'.result = t.result := by
  obtain ⟨hsel, rfl⟩ := (exec_transition_eq_next hi).1 h
  refine ⟨_, (exec_transition_eq_next hi).2 ⟨hdec ▸ hsel, rfl⟩, ?_, ?_, ?_⟩
  · simp [hdec]
  · rw [hdec]
    cases transitionResult s.dec i <;> simp [hdel]
  · simp [hdec]

/-- Feeding the inputs without the idle steps, from a state with the same `DEC` and the same delivered frames. -/
theorem feed_filter_isSome {inputs : List (Option Byte)} {s s' t : State} {rs : List DecResult} (hdec : s'.dec = s.dec)
    (hdel : s'.delivered = s.delivered) (h : feed inputs s = some (t, rs)) :
    ∃ (u : State) (us : List DecResult), feed (inputs.filter Option.isSome) s' = some (u, us) ∧ u.dec = t.dec ∧
      u.delivered = t.delivered ∧ us.filter (· ≠ .noFrame) = rs.filter (· ≠ .noFrame) := by
  induction inputs generalizing s s' rs with
  | nil => cases h; exact ⟨s', [], rfl, hdec, hdel, rfl⟩
  | cons x xs ih =>
    obtain ⟨v, rs', hv, hfeed⟩ := feed_cons_eq_some h
    rw [feed_cons hv, hfeed] at h
    cases h
    cases x with
    | none =>
      rw [selectRow_none, (idleStepChangesNothing s).2] at hv
      cases hv
      have hrest := ih (s := { s with result := .noFrame }) hdec hdel hfeed
      exact hrest
    | some b =>
      obtain ⟨v', hv', hdec', hdel', hres⟩ := exec_transition_congr (selectRow_isTransition _ _) hdec hdel hv
      rw [← hdec] at hv'
      obtain ⟨u, us, hu, hend, hdelivered, hframes⟩ := ih hdec' hdel' hfeed
      refine ⟨u, v'.result :: us, ?_, hend, hdelivered, ?_⟩
      · rw [List.filter_cons_of_pos rfl, feed_cons hv', hu]
        rfl
      · simp only [List.filter_cons, hres, hframes]

/-- Settles O30, by induction on the inputs: an idle step changes the result alone, which no transition reads. -/
theorem idleStepsAreTransparent : Obligations.IdleStepsAreTransparent :=
  fun _ _ _ _ h => feed_filter_isSome rfl rfl h

end Sys2Proof.Machine
end

section
/-! PROOFS. Family 42_host_environment: the Control Surface (R178 to R184), the Transmit Scheduler's phases (R166 to R173), the
Receive Loop (R175, R177) and shutdown (R188). Each move of a thread has its equation, and runs are chained from these. -/

namespace Sys2Proof.Machine

/-! ### Chaining runs -/

section
variable {p : HostParams} {s u : State} {o : Host.Outcome State Fault Refusal}

theorem runEvents_cons_of_next {e : Event} {es : List Event} (he : runEvent p e s = .next u) (hes : runEvents p es u = o) :
    runEvents p (e :: es) s = o := by
  rw [runEvents, he, andThen_next, hes]

theorem runEvents_append_of_next {xs ys : List Event} (hxs : runEvents p xs s = .next u) (hys : runEvents p ys u = o) :
    runEvents p (xs ++ ys) s = o := by
  induction xs generalizing s with
  | nil => cases hxs; exact hys
  | cons e es ih =>
    obtain ⟨v, hv, hes⟩ := andThen_eq_next.1 hxs
    exact runEvents_cons_of_next hv (ih hes)

end

theorem runEvents_singleton (p : HostParams) (e : Event) (s : State) : runEvents p [e] s = runEvent p e s := by
  unfold runEvents
  cases runEvent p e s <;> rfl

/-! ### Calls of the Control Surface and their writes -/

/-- Field writes one after the other. -/
def State.writes (ws : List FieldWrite) (s : State) : State := ws.foldl (fun s w => s.write w) s

theorem State.write_calls (w : FieldWrite) (s : State) : (s.write w).calls = s.calls := by
  rw [write_shape]

/-- The call made last has its first write done, where others remain. -/
theorem callerStep_more (w w' : FieldWrite) (ws : List FieldWrite) (s : State) :
    ({ s with calls := s.calls ++ [w :: w' :: ws] } : State).callerStep s.calls.length =
      { s.write w with calls := s.calls ++ [w' :: ws] } := by
  simp only [State.callerStep, List.getElem?_concat_length]
  rw [List.set_append_right _ _ (Nat.le_refl _), Nat.sub_self]
  cases w <;> rfl

/-- The call made last has its last write done, and is finished. -/
theorem callerStep_last (w : FieldWrite) (s : State) :
    ({ s with calls := s.calls ++ [[w]] } : State).callerStep s.calls.length = s.write w := by
  simp only [State.callerStep, List.getElem?_concat_length]
  rw [List.eraseIdx_append_of_length_le (Nat.le_refl _), Nat.sub_self, List.eraseIdx_cons_zero, List.append_nil]
  cases w <;> rfl

/-- The caller of the call made last does all the writes that are left. -/
theorem runEvents_caller (p : HostParams) (w : FieldWrite) (ws : List FieldWrite) (s : State) :
    runEvents p (List.replicate (ws.length + 1) (.caller s.calls.length)) { s with calls := s.calls ++ [w :: ws] } =
      .next (s.writes (w :: ws)) := by
  induction ws generalizing w s with
  | nil => exact runEvents_cons_of_next (congrArg Host.Outcome.next (callerStep_last w s)) rfl
  | cons w' ws ih =>
    refine runEvents_cons_of_next (congrArg Host.Outcome.next (callerStep_more w w' ws s)) ?_
    have hrest := ih w' (s.write w)
    rw [State.write_calls] at hrest
    exact hrest

theorem runEvent_call {p : HostParams} {c : Call} {w : FieldWrite} {ws : List FieldWrite} (h : callWrites p c = w :: ws)
    (s : State) : runEvent p (.call c) s = .next (s.beginWrites (w :: ws)) := by
  rw [← h]
  exact callSurface_writes (by rintro rfl; cases h) (by rintro rfl; cases h) p s

theorem runEvent_write {p : HostParams} {c : Call} {w : FieldWrite} (h : callWrites p c = [w]) (s : State) :
    runEvent p (.call c) s = .next (s.write w) :=
  runEvent_call h s

/-- A call with its caller's further writes is all its writes in order (log 8). -/
theorem runEvents_call {p : HostParams} {c : Call} {w : FieldWrite} {ws : List FieldWrite} (h : callWrites p c = w :: ws)
    (s : State) : runEvents p (.call c :: List.replicate ws.length (.caller s.calls.length)) s = .next (s.writes (w :: ws)) := by
  refine runEvents_cons_of_next (runEvent_call h s) ?_
  cases ws with
  | nil => rfl
  | cons w' ws =>
    have hrest := runEvents_caller p w' ws (s.write w)
    rw [State.write_calls] at hrest
    exact hrest

/-- Settles O48: each of these calls is one write. -/
theorem settersWriteTheirField : Obligations.SettersWriteTheirField := by
  intro p s v n
  exact ⟨runEvent_write (w := .roll v) rfl s, runEvent_write (w := .pitch v) rfl s, runEvent_write (w := .yaw v) rfl s,
    runEvent_write (w := .throttle n) rfl s, runEvent_write (w := .althold p.altholdOn.toNat) rfl s,
    runEvent_write (w := .althold 0) rfl s, runEvent_write (w := .flag .arm) rfl s, runEvent_write (w := .flag .disarm) rfl s,
    runEvent_write (w := .flag .accCal) rfl s, runEvent_write (w := .flag .magCal) rfl s,
    runEvent_write (w := .flag .persist) rfl s⟩

/-- Settles O49: each call is its writes in order. -/
theorem severalFieldCallsComplete : Obligations.SeveralFieldCallsComplete :=
  fun _ s x y d => ⟨runEvents_call (c := .resetNeutral) rfl s, runEvents_call (c := .setFlow x y) rfl s,
    runEvents_call (c := .requestTrim d) rfl s⟩

/-- Settles O50: with a report there, the snapshot's default is not taken. -/
theorem getterReturnsTheSnapshot : Obligations.GetterReturnsTheSnapshot := by
  intro p s record h
  have hread : s.telemetry = record := by rw [State.telemetry, h, Option.getD_some]
  rw [← hread]
  rfl

theorem startLoops_of_stopped {s : State} (htx : s.txPos = .stopped) (hrx : s.rxPos = .stopped) :
    startLoops s = .next { s with dec := s.dec.powerOn, txPos := .tick .command, rxPos := .poll } :=
  if_pos ⟨htx, hrx⟩

/-- Settles O51: `DEC` is powered on, which puts it in the reset state and empties the buffer. -/
theorem startBeginsBothLoops : Obligations.StartBeginsBothLoops := by
  intro p s
  refine ⟨fun htx hrx => ?_, fun h => if_neg ?_⟩
  · have hreset : s.dec.powerOn.AtReset := ⟨rfl, rfl, rfl, rfl, rfl⟩
    exact ⟨_, startLoops_of_stopped htx hrx, hreset, fun _ => rfl, rfl⟩
  · rwa [not_and_or]

/-! ### The flow offsets stay within their range (R160, R181) -/

theorem clampFlow_flowOk (v : Int) : FlowOk (clampFlow v) := by
  unfold clampFlow FlowOk flowClamp
  split
  · omega
  · split <;> omega

theorem callWrites_writeOk (p : HostParams) (c : Call) : ∀ w ∈ callWrites p c, WriteOk w := by
  cases c with
  | setFlow x y => simp [callWrites, WriteOk, clampFlow_flowOk]
  | _ => simp [callWrites, WriteOk]

theorem FlowClamped.write {s : State} (h : FlowClamped s) {w : FieldWrite} (hw : WriteOk w) : FlowClamped (s.write w) := by
  obtain ⟨hx, hy, hcalls⟩ := h
  cases w with
  | flowX v => exact ⟨hw, hy, hcalls⟩
  | flowY v => exact ⟨hx, hw, hcalls⟩
  | _ => exact ⟨hx, hy, hcalls⟩

theorem FlowClamped.withCalls {s : State} (h : FlowClamped s) {calls : List (List FieldWrite)}
    (hcalls : ∀ ws ∈ calls, ∀ w ∈ ws, WriteOk w) : FlowClamped { s with calls := calls } := by
  obtain ⟨hx, hy, -⟩ := h
  exact ⟨hx, hy, hcalls⟩

theorem FlowClamped.beginWrites {s : State} (h : FlowClamped s) {ws : List FieldWrite} (hws : ∀ w ∈ ws, WriteOk w) :
    FlowClamped (s.beginWrites ws) := by
  have ⟨_, _, hcalls⟩ := h
  unfold State.beginWrites
  split
  · exact h
  · exact h.write (hws _ (List.mem_singleton_self _))
  · next w rest _ =>
    obtain ⟨hw, hrest⟩ := List.forall_mem_cons.1 hws
    refine (h.write hw).withCalls fun vs hvs => ?_
    obtain hvs | hvs := List.mem_append.1 hvs
    · exact hcalls vs hvs
    · rwa [List.mem_singleton.1 hvs]

theorem FlowClamped.callerStep {s : State} (h : FlowClamped s) (k : Nat) : FlowClamped (s.callerStep k) := by
  have ⟨_, _, hcalls⟩ := h
  have herase : ∀ ws ∈ s.calls.eraseIdx k, ∀ w ∈ ws, WriteOk w := fun ws hws => hcalls ws (List.mem_of_mem_eraseIdx hws)
  unfold State.callerStep
  split
  · exact h
  · exact h.withCalls herase
  · next w hk => exact (h.write (hcalls _ (List.mem_of_getElem? hk) w (List.mem_singleton_self w))).withCalls herase
  · next w rest _ hk =>
    obtain ⟨hw, hrest⟩ := List.forall_mem_cons.1 (hcalls _ (List.mem_of_getElem? hk))
    refine (h.write hw).withCalls fun vs hvs => ?_
    obtain hvs | rfl := List.mem_or_eq_of_mem_set hvs
    · exact hcalls vs hvs
    · exact hrest

/-- One entry of the schedule keeps the flow offsets within their range: calls and callers alone write them. -/
theorem runEvent_flowClamped {p : HostParams} {e : Event} {s t : State} (hs : FlowClamped s) (h : runEvent p e s = .next t) :
    FlowClamped t := by
  cases e with
  | arrive b => cases h; exact hs
  | invoke op =>
    obtain ⟨cmd, payload, -, rfl⟩ | ⟨i, hi | rfl, -, hx⟩ := invoke_cases h
    · exact hs
    · rw [exec_transition_shape hi hx]; exact hs
    · rw [decStep_shape hx]; exact hs
  | txStep n => rw [txStep_shape h]; exact hs
  | rxStep => rw [rxStep_shape h]; exact hs
  | call c =>
    by_cases hstart : c = .start
    · subst hstart
      rw [startLoops_next h]
      exact hs
    by_cases hget : c = .getTelemetry
    · subst hget; cases h; exact hs
    · cases (callSurface_writes hstart hget p s).symm.trans h
      exact hs.beginWrites (callWrites_writeOk p c)
  | caller k => cases h; exact hs.callerStep k
  | reset => cases h; exact hs
  | shutdown => cases h; exact hs

/-- Settles O38, from `runEvent_flowClamped`: a call's flow writes are clamped when it is made. -/
theorem everyStepKeepsFlowClamped : Obligations.EveryStepKeepsFlowClamped := by
  intro s t hs h
  obtain rfl | ⟨e, rest, -, h⟩ := step_cases h
  · exact hs
  · exact runEvent_flowClamped (s := { s with schedule := rest }) hs h

/-! ### The scheduler's moves, position by position -/

section
variable (p : HostParams) (n : Nat) {s : State}

theorem runEvent_txStep_tick {ph : Phase} (h : s.txPos = .tick ph) (hdown : s.shutdown = false) :
    runEvent p (.txStep n) s = .next { s with txPos := phaseStart ph } := by
  simp [runEvent, txStep, h, hdown, State.txAt]

theorem runEvent_txStep_tick_shutdown {ph : Phase} (h : s.txPos = .tick ph) (hdown : s.shutdown = true) :
    runEvent p (.txStep n) s = .next { s with txPos := .stopped } := by
  simp [runEvent, txStep, h, hdown, State.txAt]

theorem runEvent_txStep_test_unset {f : ReqFlag} (h : s.txPos = .test f) (hf : s.req.get f = false) :
    runEvent p (.txStep n) s = .next { s with txPos := afterFlag f } := by
  simp [runEvent, txStep, h, hf, State.txAt]

/-- Choice 0: the flag is cleared after its frame (log 9). -/
theorem runEvent_txStep_test_zero {f : ReqFlag} (h : s.txPos = .test f) (hf : s.req.get f = true) (hn : n = 0) :
    runEvent p (.txStep n) s = .next { s with txPos := .emit f false } := by
  simp [runEvent, txStep, h, hf, hn, State.txAt]

/-- Any other choice: the flag is cleared with the test (log 9). -/
theorem runEvent_txStep_test_ne_zero {f : ReqFlag} (h : s.txPos = .test f) (hf : s.req.get f = true) (hn : n ≠ 0) :
    runEvent p (.txStep n) s = .next { s with req := s.req.set f false, txPos := .emit f true } := by
  simp [runEvent, txStep, h, hf, hn, State.txAt]

theorem runEvent_txStep_emit {f : ReqFlag} {cleared : Bool} (h : s.txPos = .emit f cleared) :
    runEvent p (.txStep n) s = .next { s with
      tx := s.tx ++ encodeFrame (commandIdOf p s.req f) []
      txPos := if cleared then afterFlag f else .clear f } := by
  simp only [runEvent, txStep, h]
  exact txIssue_enc (.inl ⟨rfl, rfl⟩) _ s

theorem runEvent_txStep_clear {f : ReqFlag} (h : s.txPos = .clear f) :
    runEvent p (.txStep n) s = .next { s with req := s.req.set f false, txPos := afterFlag f } := by
  simp [runEvent, txStep, h, State.txAt]

theorem runEvent_txStep_read_nil {got : ControlInputs} (h : s.txPos = .read [] got) :
    runEvent p (.txStep n) s = .next { s with txPos := .compose got } := by
  simp [runEvent, txStep, h, State.txAt]

/-- The choice picks one of the fields still to read (log 8). -/
theorem runEvent_txStep_read {todo : List CtlField} {got : ControlInputs} (h : s.txPos = .read todo got) (htodo : todo ≠ []) :
    ∃ (k : Nat) (hk : k < todo.length), runEvent p (.txStep n) s =
      .next { s with txPos := .read (todo.eraseIdx k) (s.ctl.copyField todo[k] got) } := by
  cases todo with
  | nil => exact absurd rfl htodo
  | cons f fs =>
    have hk : n % (fs.length + 1) < (f :: fs).length := Nat.mod_lt n (Nat.succ_pos _)
    refine ⟨_, hk, ?_⟩
    simp only [runEvent, txStep, h, List.getD_eq_getElem _ _ hk, State.txAt]

theorem runEvent_txStep_compose {got : ControlInputs} {payload : List Byte} (h : s.txPos = .compose got)
    (hpayload : controlPayload got = some payload) :
    runEvent p (.txStep n) s = .next { s with
      tx := s.tx ++ encodeFrame p.cmdSetControl payload, txPos := .tick .request } := by
  have hlen : payload.length ≤ 64 := by
    rw [controlPayload_length hpayload]
    omega
  simp only [runEvent, txStep, h, hpayload]
  exact txIssue_enc (.inr ⟨rfl, hlen⟩) _ s

theorem runEvent_txStep_compose_none {got : ControlInputs} (h : s.txPos = .compose got) (hpayload : controlPayload got = none) :
    runEvent p (.txStep n) s = .refused .channelOutOfRange := by
  simp [runEvent, txStep, h, hpayload]

theorem runEvent_txStep_request (h : s.txPos = .request) :
    runEvent p (.txStep n) s = .next { s with tx := s.tx ++ encodeFrame p.cmdReqSensor [], txPos := .tick .command } := by
  simp only [runEvent, txStep, h]
  exact txIssue_enc (.inl ⟨rfl, rfl⟩) _ s

end

/-! ### The phases come in order (R166) -/

theorem phaseOf_phaseStart (ph : Phase) : phaseOf (phaseStart ph) = some ph := by
  cases ph <;> rfl

theorem afterFlag_cases (f : ReqFlag) : phaseOf (afterFlag f) = some .command ∨ afterFlag f = .tick .control := by
  cases f with
  | trim => exact .inr rfl
  | _ => exact .inl rfl

/-- A move from a position in a phase ends in the same phase, or at the tick of the next one, or, at a tick after the shutdown
signal, stopped. -/
def PhaseMove (s t : State) (ph : Phase) : Prop :=
  phaseOf t.txPos = some ph ∨ t.txPos = .tick (nextPhase ph) ∨ (t.txPos = .stopped ∧ s.shutdown = true)

theorem phaseMove_afterFlag {s t : State} {f : ReqFlag} (h : t.txPos = afterFlag f) : PhaseMove s t .command := by
  unfold PhaseMove
  rw [h]
  obtain hf | hf := afterFlag_cases f
  · exact .inl hf
  · exact .inr (.inl hf)

/-- Settles O52, position by position. -/
theorem schedulerPhasesComeInOrder : Obligations.SchedulerPhasesComeInOrder := by
  intro p n s t ph hph h
  change PhaseMove s t ph
  cases hpos : s.txPos <;> (rw [hpos] at hph; cases hph)
  case tick =>
    cases hdown : s.shutdown with
    | true =>
      cases (runEvent_txStep_tick_shutdown p n hpos hdown).symm.trans h
      exact .inr (.inr ⟨rfl, hdown⟩)
    | false =>
      cases (runEvent_txStep_tick p n hpos hdown).symm.trans h
      exact .inl (phaseOf_phaseStart ph)
  case test f =>
    cases hf : s.req.get f with
    | false =>
      cases (runEvent_txStep_test_unset p n hpos hf).symm.trans h
      exact phaseMove_afterFlag rfl
    | true =>
      by_cases hn : n = 0
      · cases (runEvent_txStep_test_zero p n hpos hf hn).symm.trans h
        exact .inl rfl
      · cases (runEvent_txStep_test_ne_zero p n hpos hf hn).symm.trans h
        exact .inl rfl
  case emit f cleared =>
    cases (runEvent_txStep_emit p n hpos).symm.trans h
    cases cleared with
    | true => exact phaseMove_afterFlag rfl
    | false => exact .inl rfl
  case clear f =>
    cases (runEvent_txStep_clear p n hpos).symm.trans h
    exact phaseMove_afterFlag rfl
  case read todo got =>
    by_cases htodo : todo = []
    · rw [htodo] at hpos
      cases (runEvent_txStep_read_nil p n hpos).symm.trans h
      exact .inl rfl
    · obtain ⟨k, hk, hmove⟩ := runEvent_txStep_read p n hpos htodo
      cases hmove.symm.trans h
      exact .inl rfl
  case compose got =>
    cases hpayload : controlPayload got with
    | some payload =>
      cases (runEvent_txStep_compose p n hpos hpayload).symm.trans h
      exact .inr (.inl rfl)
    | none => cases (runEvent_txStep_compose_none p n hpos hpayload).symm.trans h
  case request =>
    cases (runEvent_txStep_request p n hpos).symm.trans h
    exact .inr (.inl rfl)

/-! ### The request flags -/

namespace PendingRequests

theorem get_set_other (q : PendingRequests) {f g : ReqFlag} (v : Bool) (h : g ≠ f) : (q.set f v).get g = q.get g := by
  cases f <;> cases g <;> simp_all [get, set]

theorem set_set (q : PendingRequests) (f : ReqFlag) (v w : Bool) : (q.set f v).set f w = q.set f w := by
  cases f <;> rfl

theorem set_get (q : PendingRequests) (f : ReqFlag) : q.set f (q.get f) = q := by
  cases f <;> rfl

theorem set_trimDir (q : PendingRequests) (f : ReqFlag) (v : Bool) : (q.set f v).trimDir = q.trimDir := by
  cases f <;> rfl

/-- The record with the direction that a request of the flag leaves (R182). -/
def directed (q : PendingRequests) (f : ReqFlag) (d : TrimDir) : PendingRequests :=
  { q with trimDir := directionAfter f d q }

theorem get_directed (q : PendingRequests) (f : ReqFlag) (d : TrimDir) : (q.directed f d).get f = q.get f := by
  cases f <;> rfl

theorem directed_set (q : PendingRequests) (f : ReqFlag) (d : TrimDir) (v : Bool) :
    (q.set f v).directed f d = (q.directed f d).set f v := by
  cases f <;> rfl

end PendingRequests

/-- A command id depends on no flag. -/
theorem commandIdOf_set (p : HostParams) (q : PendingRequests) (f g : ReqFlag) (v : Bool) :
    commandIdOf p (q.set f v) g = commandIdOf p q g := by
  cases g with
  | trim => exact congrArg (trimId p) (q.set_trimDir f v)
  | _ => rfl

/-! ### A request beside the scheduler's move (U13) -/

/-- A whole request stores its direction and sets its flag (R182). -/
theorem runEvents_request (p : HostParams) (f : ReqFlag) (d : TrimDir) (s : State) :
    runEvents p (requestEvents f d s.calls.length) s = .next { s with req := (s.req.directed f d).set f true } := by
  cases f with
  | arm => exact runEvents_call (c := .requestArm) rfl s
  | disarm => exact runEvents_call (c := .requestDisarm) rfl s
  | accCal => exact runEvents_call (c := .requestAccCal) rfl s
  | magCal => exact runEvents_call (c := .requestMagCal) rfl s
  | persist => exact runEvents_call (c := .requestPersist) rfl s
  | trim => exact runEvents_call (c := .requestTrim d) rfl s

/-- Settles O54: the clear after the frame takes the request with it, the clear at the test comes before it. -/
theorem lateRequestIsAbsorbedOrKept : Obligations.LateRequestIsAbsorbedOrKept := by
  intro p f d s hpos hf
  have hkept : ((s.req.set f false).directed f d).set f true = s.req.directed f d := by
    rw [PendingRequests.directed_set, PendingRequests.set_set, ← hf, ← PendingRequests.get_directed s.req f d,
      PendingRequests.set_get]
  refine ⟨?_, ?_, ?_⟩
  · -- After the test: the frame has the new direction, and the clear takes the flag back.
    refine runEvents_append_of_next (runEvents_append_of_next
      (runEvents_cons_of_next (runEvent_txStep_test_zero p 0 hpos hf rfl) rfl)
      (runEvents_request p f d { s with txPos := .emit f false })) ?_
    refine runEvents_cons_of_next (runEvent_txStep_emit p 0 rfl) (runEvents_cons_of_next (runEvent_txStep_clear p 0 rfl) ?_)
    simp only [commandIdOf_set, PendingRequests.set_set]
    rfl
  · -- After the frame: it had the old direction, and the clear takes the flag back.
    refine runEvents_append_of_next (runEvents_append_of_next
      (runEvents_cons_of_next (runEvent_txStep_test_zero p 0 hpos hf rfl)
        (runEvents_cons_of_next (runEvent_txStep_emit p 0 rfl) rfl))
      (runEvents_request p f d { s with tx := _, txPos := .clear f })) ?_
    refine runEvents_cons_of_next (runEvent_txStep_clear p 0 rfl) ?_
    simp only [PendingRequests.set_set]
    rfl
  · -- After a test that cleared the flag too: the flag stays set.
    refine runEvents_append_of_next (runEvents_append_of_next
      (runEvents_cons_of_next (runEvent_txStep_test_ne_zero p 1 hpos hf Nat.one_ne_zero) rfl)
      (runEvents_request p f d { s with req := s.req.set f false, txPos := .emit f true })) ?_
    refine runEvents_cons_of_next (runEvent_txStep_emit p 0 rfl) ?_
    simp only [hkept]
    rfl

/-! ### The command phase (R168, R169, R170) -/

/-- The order in which the command phase looks at the flags (R168). -/
def flagOrder : List ReqFlag := [.arm, .disarm, .accCal, .magCal, .persist, .trim]

/-- Where the scheduler stands with these flags of the order still to look at. -/
def drainPos : List ReqFlag → TxPos
  | [] => .tick .control
  | f :: _ => .test f

theorem afterFlag_of_suffix {f : ReqFlag} {fs : List ReqFlag} (h : f :: fs <:+ flagOrder) : afterFlag f = drainPos fs := by
  simp only [flagOrder, List.suffix_cons_iff, List.cons.injEq, List.suffix_nil, reduceCtorEq, or_false] at h
  obtain ⟨rfl, rfl⟩ | ⟨rfl, rfl⟩ | ⟨rfl, rfl⟩ | ⟨rfl, rfl⟩ | ⟨rfl, rfl⟩ | ⟨rfl, rfl⟩ := h <;> rfl

theorem notMem_of_suffix {f : ReqFlag} {fs : List ReqFlag} (h : f :: fs <:+ flagOrder) : f ∉ fs :=
  (List.nodup_cons.1 (h.sublist.nodup (by decide))).1

/-- The frames of those of the flags that are set. -/
def flagFrames (p : HostParams) (q : PendingRequests) (fs : List ReqFlag) : List Byte :=
  (fs.filter q.get).flatMap fun f => encodeFrame (commandIdOf p q f) []

theorem commandFrames_eq (p : HostParams) (q : PendingRequests) : commandFrames p q = flagFrames p q flagOrder := rfl

/-- The record with the flags cleared. -/
def PendingRequests.clearAll (q : PendingRequests) (fs : List ReqFlag) : PendingRequests :=
  fs.foldl (fun q f => q.set f false) q

/-- Clearing a flag does not matter to the others. -/
theorem filter_get_set {q : PendingRequests} {f : ReqFlag} {fs : List ReqFlag} (hf : f ∉ fs) (v : Bool) :
    fs.filter (q.set f v).get = fs.filter q.get :=
  List.filter_congr fun _ hg => q.get_set_other v (ne_of_mem_of_not_mem hg hf)

theorem flagFrames_set (p : HostParams) {q : PendingRequests} {f : ReqFlag} {fs : List ReqFlag} (hf : f ∉ fs) (v : Bool) :
    flagFrames p (q.set f v) fs = flagFrames p q fs := by
  simp only [flagFrames, filter_get_set hf, commandIdOf_set]

theorem flagFrames_cons (p : HostParams) (q : PendingRequests) (f : ReqFlag) (fs : List ReqFlag) :
    flagFrames p q (f :: fs) = flagFrames p q [f] ++ flagFrames p q fs := by
  rw [flagFrames, ← List.singleton_append, List.filter_append, List.flatMap_append]
  rfl

/-- The first `n` moves of the scheduler by a sequence of choices. -/
def txMoves (choices : Nat → Nat) (n : Nat) : List Event := (List.range n).map fun i => .txStep (choices i)

theorem txMoves_add (choices : Nat → Nat) (m n : Nat) :
    txMoves choices (m + n) = txMoves choices m ++ txMoves (fun i => choices (m + i)) n := by
  simp [txMoves, List.range_add]

theorem txMoves_const (c n : Nat) : txMoves (fun _ => c) n = List.replicate n (.txStep c) := by
  rw [txMoves, List.map_const', List.length_range]

/-- `n` moves test `m` flags, `k` of them set: one move for each, and for one that is set one or two more, two with choice 0
(log 9). -/
structure DrainCount (choices : Nat → Nat) (m k n : Nat) : Prop where
  lower : m + k ≤ n
  upper : n ≤ m + 2 * k
  exact_of_zero : (∀ i, choices i = 0) → n = m + 2 * k

theorem DrainCount.add {choices : Nat → Nat} {m k n m' k' n' : Nat} (h : DrainCount choices m k n)
    (h' : DrainCount (fun i => choices (n + i)) m' k' n') : DrainCount choices (m + m') (k + k') (n + n') where
  lower := by have := h.lower; have := h'.lower; omega
  upper := by have := h.upper; have := h'.upper; omega
  exact_of_zero hz := by rw [h.exact_of_zero hz, h'.exact_of_zero fun i => hz (n + i)]; omega

/-- One flag: its frame goes out if it is set, and it ends cleared, whatever the choice. -/
theorem runEvents_flag (p : HostParams) (choices : Nat → Nat) {f : ReqFlag} {s : State} (hpos : s.txPos = .test f) :
    ∃ n, DrainCount choices 1 ([f].filter s.req.get).length n ∧ runEvents p (txMoves choices n) s = .next { s with
      tx := s.tx ++ flagFrames p s.req [f], req := s.req.set f false, txPos := afterFlag f } := by
  cases hf : s.req.get f with
  | false =>
    have hsame : s.req.set f false = s.req := by rw [← hf, PendingRequests.set_get]
    refine ⟨1, ⟨by simp [hf], by simp, by simp [hf]⟩, ?_⟩
    refine runEvents_cons_of_next (runEvent_txStep_test_unset p _ hpos hf) ?_
    simp [runEvents, flagFrames, hf, hsame]
  | true =>
    have hframe : flagFrames p s.req [f] = encodeFrame (commandIdOf p s.req f) [] := by simp [flagFrames, hf]
    rw [hframe]
    by_cases hc : choices 0 = 0
    · refine ⟨3, ⟨by simp [hf], by simp [hf], by simp [hf]⟩, ?_⟩
      exact runEvents_cons_of_next (runEvent_txStep_test_zero p _ hpos hf hc)
        (runEvents_cons_of_next (runEvent_txStep_emit p _ rfl) (runEvents_cons_of_next (runEvent_txStep_clear p _ rfl) rfl))
    · refine ⟨2, ⟨by simp [hf], by simp [hf], fun hz => absurd (hz 0) hc⟩, ?_⟩
      refine runEvents_cons_of_next (runEvent_txStep_test_ne_zero p _ hpos hf hc)
        (runEvents_cons_of_next (runEvent_txStep_emit p _ rfl) ?_)
      rw [commandIdOf_set]
      rfl

/-- The rest of the order: a frame for each flag set, and all cleared. -/
theorem runEvents_drain (p : HostParams) {fs : List ReqFlag} (hfs : fs <:+ flagOrder) (choices : Nat → Nat) {s : State}
    (hpos : s.txPos = drainPos fs) :
    ∃ n, DrainCount choices fs.length (fs.filter s.req.get).length n ∧ runEvents p (txMoves choices n) s = .next { s with
      tx := s.tx ++ flagFrames p s.req fs, req := s.req.clearAll fs, txPos := .tick .control } := by
  induction fs generalizing choices s with
  | nil =>
    have hpos : s.txPos = .tick .control := hpos
    refine ⟨0, ⟨Nat.le_refl 0, Nat.le_refl 0, fun _ => rfl⟩, ?_⟩
    simp [txMoves, runEvents, flagFrames, PendingRequests.clearAll, ← hpos]
  | cons f fs ih =>
    have hf := notMem_of_suffix hfs
    obtain ⟨n, hn, hflag⟩ := runEvents_flag p choices hpos
    obtain ⟨n', hn', hrest⟩ := ih ((List.suffix_cons f fs).trans hfs) (fun i => choices (n + i))
      (s := { s with tx := s.tx ++ flagFrames p s.req [f], req := s.req.set f false, txPos := afterFlag f })
      (afterFlag_of_suffix hfs)
    rw [filter_get_set hf] at hn'
    refine ⟨n + n', ?_, ?_⟩
    · have hcount := hn.add hn'
      rwa [← List.length_append, ← List.filter_append, List.singleton_append, Nat.add_comm 1] at hcount
    · rw [txMoves_add, flagFrames_cons, ← List.append_assoc]
      rw [flagFrames_set p hf] at hrest
      exact runEvents_append_of_next hflag hrest

/-- The whole phase: the move from its tick, and then the flags in their order. -/
theorem runEvents_commandPhase (p : HostParams) (choices : Nat → Nat) {s : State} (hpos : s.txPos = .tick .command)
    (hdown : s.shutdown = false) :
    ∃ n, DrainCount choices 7 (flagOrder.filter s.req.get).length n ∧ runEvents p (txMoves choices n) s = .next { s with
      tx := s.tx ++ commandFrames p s.req, req := s.req.clearAll flagOrder, txPos := .tick .control } := by
  obtain ⟨n, hn, hdrain⟩ := runEvents_drain p List.suffix_rfl (fun i => choices (1 + i))
    (s := { s with txPos := .test .arm }) rfl
  have htick : DrainCount choices 1 0 1 := ⟨Nat.le_refl 1, Nat.le_refl 1, fun _ => rfl⟩
  have hcount := htick.add hn
  rw [Nat.zero_add] at hcount
  refine ⟨1 + n, hcount, ?_⟩
  rw [txMoves_add, commandFrames_eq]
  exact runEvents_append_of_next (runEvents_cons_of_next (runEvent_txStep_tick p _ hpos hdown) rfl) hdrain

/-- Settles O53, from `runEvents_commandPhase` with any choices and with choice 0 throughout. -/
theorem commandPhaseDrainsTheRequests : Obligations.CommandPhaseDrainsTheRequests := by
  intro p s hpos hdown
  refine ⟨?_, fun choices => ?_⟩
  · obtain ⟨n, hn, hrun⟩ := runEvents_commandPhase p (fun _ => 0) hpos hdown
    rw [hn.exact_of_zero fun _ => rfl, txMoves_const] at hrun
    exact hrun
  · obtain ⟨n, hn, hrun⟩ := runEvents_commandPhase p choices hpos hdown
    exact ⟨n, hn.lower, hn.upper, hrun⟩

/-! ### The control phase (R171, R172) -/

theorem copyField_copyField_same (src dst : ControlInputs) (f : CtlField) :
    src.copyField f (src.copyField f dst) = src.copyField f dst := by
  cases f <;> rfl

theorem copyField_comm (src dst : ControlInputs) (f g : CtlField) :
    src.copyField f (src.copyField g dst) = src.copyField g (src.copyField f dst) := by
  cases f <;> cases g <;> rfl

/-- A copy that a read of no field changes is the whole record. -/
theorem eq_of_copyField_eq {src got : ControlInputs} (h : ∀ f, src.copyField f got = got) : got = src := by
  have hall : allFields.foldr src.copyField got = src := rfl
  rw [← hall]
  simp only [allFields, List.foldr, h]

/-- The local copy agrees with the control inputs in every field that is read already. -/
def ReadSoFar (src : ControlInputs) (todo : List CtlField) (got : ControlInputs) : Prop :=
  ∀ g, g ∉ todo → src.copyField g got = got

theorem ReadSoFar.start (src got : ControlInputs) : ReadSoFar src allFields got := by
  intro g hg
  cases g <;> simp [allFields] at hg

theorem ReadSoFar.done {src got : ControlInputs} (h : ReadSoFar src [] got) : got = src :=
  eq_of_copyField_eq fun f => h f List.not_mem_nil

/-- A read of any of the fields still to read. -/
theorem ReadSoFar.read {src got : ControlInputs} {todo : List CtlField} (h : ReadSoFar src todo got) {k : Nat}
    (hk : k < todo.length) : ReadSoFar src (todo.eraseIdx k) (src.copyField todo[k] got) := by
  intro g hg
  by_cases hgk : g = todo[k]
  · rw [hgk, copyField_copyField_same]
  · have hmem : g ∉ todo := by
      rw [← (List.getElem_cons_eraseIdx_perm hk).mem_iff, List.mem_cons]
      exact not_or.2 ⟨hgk, hg⟩
    rw [copyField_comm, h g hmem]

/-- As many moves as there are fields to read copy them all, in whatever order. -/
theorem runEvents_read (p : HostParams) (choices : List Nat) {todo : List CtlField} {got : ControlInputs} {s : State}
    (hlen : choices.length = todo.length) (hpos : s.txPos = .read todo got) (hread : ReadSoFar s.ctl todo got) :
    runEvents p (choices.map .txStep) s = .next { s with txPos := .read [] s.ctl } := by
  induction choices generalizing todo got s with
  | nil =>
    obtain rfl := List.eq_nil_of_length_eq_zero hlen.symm
    rw [hread.done] at hpos
    rw [← hpos]
    rfl
  | cons n ns ih =>
    have htodo : todo ≠ [] := by
      rintro rfl
      cases hlen
    obtain ⟨k, hk, hmove⟩ := runEvent_txStep_read p n hpos htodo
    have hlen' : ns.length = (todo.eraseIdx k).length := by
      rw [List.length_eraseIdx_of_lt hk, ← hlen]
      rfl
    exact runEvents_cons_of_next hmove (ih hlen' rfl (hread.read hk))

/-- An undisturbed control phase comes to its last move with the control inputs as they stand. -/
theorem runEvents_controlPhase (p : HostParams) {choices : List Nat} {s : State} (hpos : s.txPos = .tick .control)
    (hdown : s.shutdown = false) (hlen : choices.length = 10) :
    ∃ n, runEvents p (choices.map .txStep) s = runEvent p (.txStep n) { s with txPos := .compose s.ctl } := by
  obtain ⟨c, cs, rfl⟩ : ∃ c cs, choices = c :: cs := List.exists_cons_of_length_eq_add_one hlen
  have hlen : cs.length = 9 := Nat.succ.inj hlen
  obtain ⟨m, n, hlast⟩ : ∃ m n, cs.drop 7 = [m, n] := List.length_eq_two.1 (by rw [List.length_drop, hlen])
  refine ⟨n, runEvents_cons_of_next (runEvent_txStep_tick p c hpos hdown) ?_⟩
  rw [← List.take_append_drop 7 cs, List.map_append, hlast]
  refine runEvents_append_of_next (runEvents_read p (cs.take 7) ?_ rfl (ReadSoFar.start _ _)) ?_
  · rw [List.length_take, hlen]
    rfl
  · exact runEvents_cons_of_next (runEvent_txStep_read_nil p m rfl) (runEvents_singleton p _ _)

/-- The five sums of R172 with the biases and the pairing of D21 and D22. -/
theorem channelSums_eq (c : ControlInputs) : channelSums c =
    [125 + c.roll + c.flowX, 125 + c.pitch + c.flowY, 125 + c.yaw, (c.throttle : Int), (c.althold : Int)] := by
  simp [channelSums, chMid, chMin]

theorem channelByte_toNat (b : Byte) : channelByte b.toNat = some b := by
  have hb : b.toNat < 256 := b.isLt
  rw [channelByte, if_pos (by omega), BitVec.ofInt_natCast, BitVec.ofNat_toNat, BitVec.setWidth_eq]

theorem channelBytes_toNat (bs : List Byte) : channelBytes (bs.map fun b => (b.toNat : Int)) = some bs := by
  induction bs with
  | nil => rfl
  | cons b bs ih => simp only [List.map_cons, channelBytes, channelByte_toNat, ih]

theorem channelByte_eq_none {v : Int} (hv : v < 0 ∨ 255 < v) : channelByte v = none :=
  if_neg (by omega)

/-- One value that does not fit a byte is enough for there to be no bytes. -/
theorem channelBytes_eq_none {vs : List Int} {v : Int} (hmem : v ∈ vs) (hv : v < 0 ∨ 255 < v) : channelBytes vs = none := by
  induction hmem with
  | head vs => simp only [channelBytes, channelByte_eq_none hv]
  | tail w _ ih => cases hw : channelByte w <;> simp only [channelBytes, hw, ih]

/-- Settles O55: the last move composes from the control inputs, and its channels fit a byte each, or one of them does not. -/
theorem controlPhaseEmitsThePayload : Obligations.ControlPhaseEmitsThePayload := by
  intro p s choices hpos hdown hlen
  obtain ⟨n, hrun⟩ := runEvents_controlPhase p hpos hdown hlen
  refine ⟨fun ch0 ch1 ch2 ch3 ch4 h0 h1 h2 h3 h4 => ?_, fun ⟨v, hmem, hv⟩ => ?_⟩
  · have hpayload : controlPayload s.ctl = some [ch0, ch1, ch2, ch3, ch4] := by
      rw [controlPayload, channelSums_eq, ← h0, ← h1, ← h2, ← h3, ← h4]
      exact channelBytes_toNat [ch0, ch1, ch2, ch3, ch4]
    exact hrun.trans (runEvent_txStep_compose p n rfl hpayload)
  · have hpayload : controlPayload s.ctl = none := by
      rw [controlPayload, channelSums_eq]
      exact channelBytes_eq_none hmem hv
    exact hrun.trans (runEvent_txStep_compose_none p n rfl hpayload)

/-! ### The telemetry-request phase (R173) -/

/-- Settles O56: a tick, and the move that sends the request's frame. -/
theorem requestPhaseEmitsOneFrame : Obligations.RequestPhaseEmitsOneFrame := by
  intro p s m n hpos hdown
  rw [← encodeFrame_nil]
  exact runEvents_cons_of_next (runEvent_txStep_tick p m hpos hdown)
    (runEvents_cons_of_next (runEvent_txStep_request p n rfl) rfl)

/-! ### The Receive Loop (R175, R177) -/

theorem runEvent_rxStep_poll (p : HostParams) {s t : State} (hpos : s.rxPos = .poll) (hdown : s.shutdown = false)
    (h : exec .decStep s = .next t) : runEvent p .rxStep s = .next { t with rxPos := .handle t.result } := by
  simp [runEvent, rxStep, hpos, hdown, h]

theorem runEvent_rxStep_poll_shutdown (p : HostParams) {s : State} (hpos : s.rxPos = .poll) (hdown : s.shutdown = true) :
    runEvent p .rxStep s = .next { s with rxPos := .stopped } := by
  simp [runEvent, rxStep, hpos, hdown]

theorem runEvent_rxStep_handle (p : HostParams) {r : DecResult} {s : State} (hpos : s.rxPos = .handle r) :
    runEvent p .rxStep s = .next { s.handleResult p r with rxPos := .poll } := by
  simp [runEvent, rxStep, hpos]

theorem handleResult_report {p : HostParams} {r : DecResult} {f : Frame} (hr : r = .frame f) (hf : f.cmd = p.cmdSensorReport)
    (s : State) : s.handleResult p r = { s with snapshot := some f.payload } := by
  rw [hr]
  exact if_pos hf

theorem handleResult_other {p : HostParams} {r : DecResult} {f : Frame} (hr : r = .frame f) (hf : f.cmd ≠ p.cmdSensorReport)
    (s : State) : s.handleResult p r = s := by
  rw [hr]
  exact if_neg hf

/-- What is done with a result does not depend on where the loop stands. -/
theorem handleResult_rxPos (p : HostParams) (r : DecResult) (pos : RxPos) (s : State) :
    ({ s with rxPos := pos } : State).handleResult p r = { s.handleResult p r with rxPos := pos } := by
  cases r with
  | noFrame => rfl
  | frame f => simp only [State.handleResult]; split <;> rfl

/-- An iteration is a decoder step and what is done with its result. -/
theorem runEvents_rxIteration (p : HostParams) {s t : State} (hpos : s.rxPos = .poll) (hdown : s.shutdown = false)
    (h : exec .decStep s = .next t) : runEvents p [.rxStep, .rxStep] s = .next (t.handleResult p t.result) := by
  have hback : ({ t with rxPos := .poll } : State) = t := by rw [decStep_shape h, ← hpos]
  refine runEvents_cons_of_next (runEvent_rxStep_poll p hpos hdown h)
    (runEvents_cons_of_next (runEvent_rxStep_handle p rfl) (congrArg Host.Outcome.next ?_))
  rw [handleResult_rxPos, ← handleResult_rxPos p t.result .poll t, hback]

/-- Settles O57: the result is nothing, a sensor report or another frame. -/
theorem receiveLoopKeepsSensorReports : Obligations.ReceiveLoopKeepsSensorReports := by
  intro p s t hpos hdown h
  have hrun := runEvents_rxIteration p hpos hdown h
  refine ⟨fun hr => ?_, fun f hr hf => ?_, fun f hr hf => ?_⟩
  · rw [hrun, hr]
    rfl
  · rw [hrun, handleResult_report hr hf]
  · rw [hrun, handleResult_other hr hf]

/-! ### Shutdown (R188) -/

/-- Settles O58: each loop's check finds the flag set. -/
theorem shutdownEndsTheLoops : Obligations.ShutdownEndsTheLoops :=
  fun p _ n => ⟨rfl, fun hdown =>
    ⟨fun _ hpos => runEvent_txStep_tick_shutdown p n hpos hdown, fun hpos => runEvent_rxStep_poll_shutdown p hpos hdown⟩⟩

end Sys2Proof.Machine
end

section
/-! PROOFS. Family 70_reset_and_hazards: a reset of the block (R230), and the invocations that are refused (R239, U14). -/

namespace Sys2Proof.Machine

/-! ### Reset of the block (R230) -/

theorem Dec.powerOn_atReset (d : Dec) : d.powerOn.AtReset :=
  ⟨d.powerOn_state, d.powerOn_len, d.powerOn_cmd, d.powerOn_cnt, d.powerOn_acc⟩

theorem Dec.powerOn_buf_read (d : Dec) (i : Nat) : d.powerOn.buf.read i = none := by
  rw [powerOn_buf]
  rfl

theorem runEvent_reset (p : HostParams) (s : State) : runEvent p .reset s = .next { s with dec := s.dec.powerOn } := rfl

/-- Settles O42: a reset powers `DEC` on. -/
theorem blockResetForgetsTheFrame : Obligations.BlockResetForgetsTheFrame :=
  fun p s => ⟨_, runEvent_reset p s, s.dec.powerOn_atReset, s.dec.powerOn_buf_read, rfl⟩

/-! ### Invocations that are refused (R239, U14) -/

theorem State.owned_schedule (op : Invocation) (events : List Event) (s : State) :
    ({ s with schedule := events } : State).owned op = s.owned op := by
  cases op <;> rfl

theorem invokeBlock_of_owned {op : Invocation} {s : State} (howned : s.owned op = true) :
    invokeBlock op s = .refused .secondUser :=
  if_pos howned

theorem invokeBlock_of_decode_error {op : Invocation} {s : State} {e : DecodeError} (howned : s.owned op = false)
    (hd : decode s.dec.key op = .error e) : invokeBlock op s = .refused .notAFrame := by
  simp [invokeBlock, howned, hd]

/-- Settles O44: taking the entry off the schedule changes neither who owns the block nor what `DEC` expects. -/
theorem strayInvocationsAreRefused : Obligations.StrayInvocationsAreRefused := by
  intro s op rest hsched
  have hstep : step s = invokeBlock op { s with schedule := rest } := step_event hsched
  rw [hstep, ← State.owned_schedule op rest s]
  exact ⟨invokeBlock_of_owned, fun _ => invokeBlock_of_decode_error⟩

end Sys2Proof.Machine
end
